-- ==== Sys2Proof/Word.lean ====
section
/-! DEFINITION. The value types of the block: every width is fixed by rule R5. -/

namespace Sys2Proof

/-- An ASCII character or a raw byte: 8 bits (R5). -/
abbrev Byte := BitVec 8

/-- A base64 symbol value: 6 bits (R5). -/
abbrev Sextet := BitVec 6

/-- One block on a port: four 6-bit lanes or three 8-bit lanes, 24 bits (R5, R12, R13). -/
abbrev Lanes := BitVec 24

/-- A command word `cmd[25:0] = {op[1:0], din[23:0]}` (R30). -/
abbrev CmdWord := BitVec 26

/-- The operation a transaction selects (R11, R31). Every 2-bit value names one (R34). -/
inductive Op where
  | lookupDec
  | lookupEnc
  | repackDec
  | repackEnc
deriving DecidableEq, Repr

end Sys2Proof
end

