-- ==== Sys2Proof/Config.lean ====
section
/-! DEFINITION. What the spec leaves open and no rule fixes: one free value, with no body. -/

namespace Sys2Proof

/-- FREE VALUE: what `dout` holds while `fault = 1`, "any value" (R13, R93, I2). It depends on the ports' inputs
alone, as every output does (R16). It has no body, so nothing can be proved of its value. -/
opaque Config.faultDout (op : BitVec 2) (din : Lanes) : Lanes

end Sys2Proof
end

