-- ==== Sys2Proof/Machine/Operands.lean ====
section
/-! DEFINITION. Operand forms: the lanes of `din` and `dout` (R21, R32, R36) and the bit lists of R6. -/

namespace Sys2Proof.Machine

/-- 6-bit lane `k` of a port: bits `[6k+5:6k]` (R21). -/
def lane6 (d : Lanes) (k : Nat) : Sextet := d.extractLsb' (6 * k) 6

/-- 8-bit lane `k` of a port: bits `[8k+7:8k]` (R21). -/
def lane8 (d : Lanes) (k : Nat) : Byte := d.extractLsb' (8 * k) 8

/-- Four symbols on a port, lane 0 in the low bits: `{s3, s2, s1, s0}` (R21). -/
def pack6 (s0 s1 s2 s3 : Sextet) : Lanes := s3 ++ s2 ++ s1 ++ s0

/-- Three bytes on a port, lane 0 in the low bits: `{b2, b1, b0}` (R21). -/
def pack8 (b0 b1 b2 : Byte) : Lanes := b2 ++ b1 ++ b0

/-- `Σ e_i · 2^i` of a bit list read LSB-first (R6). -/
def bitsValue : List Bool → Nat
  | [] => 0
  | b :: bs => b.toNat + 2 * bitsValue bs

/-- `fromBitsLSB` of R6, as an unsigned value of width `w`. -/
def fromBitsLSB (w : Nat) (bits : List Bool) : BitVec w := BitVec.ofNat w (bitsValue bits)

/-- The bits of a byte with bit 7 first: its part of the encode bit stream (R23, R70). -/
def bitsMSB (b : Byte) : List Bool := [b[7], b[6], b[5], b[4], b[3], b[2], b[1], b[0]]

/-- Symbol `k` of an MSB-first bit stream: window `stream[6k .. 6k+5]`, reversed and read LSB-first (R70). -/
def windowSymbol (stream : List Bool) (k : Nat) : Sextet :=
  fromBitsLSB 6 ((stream.drop (6 * k)).take 6).reverse

end Sys2Proof.Machine
end

