-- ==== Sys2Proof/Syntax.lean ====
section
/-! DEFINITION. The instructions: one constructor per row of the opcode table, with the operand fields of R32. -/

namespace Sys2Proof

/-- One operation with its operands (R31, R32). The bits `din[23:8]` that a lookup ignores (R33) are
no operand, so every spelling of a lookup is the same instruction. -/
inductive Instr where
  /-- LOOKUP.DEC: `c` is the ASCII code of one input character. -/
  | lookupDec (c : Byte)
  /-- LOOKUP.ENC: `i` is a symbol index, legal in 0..63 (R32, R52). -/
  | lookupEnc (i : Byte)
  /-- REPACK.DEC: the symbols of the block's characters, first character first. -/
  | repackDec (g0 g1 g2 g3 : Sextet)
  /-- REPACK.ENC: the bytes of the block, first byte first. -/
  | repackEnc (b0 b1 b2 : Byte)
deriving DecidableEq, Repr

/-- The operation of an instruction (R31). -/
def Instr.op : Instr → Op
  | .lookupDec _ => .lookupDec
  | .lookupEnc _ => .lookupEnc
  | .repackDec _ _ _ _ => .repackDec
  | .repackEnc _ _ _ => .repackEnc

end Sys2Proof
end

