-- ==== Sys2Proof/WellFormed.lean ====
section
/-! DEFINITION. What the assembler accepts: a line has the operation's number of operands, each inside its
field's range (R32, R37). An `Instr` is well formed when the line that spells it is. -/

namespace Sys2Proof

/-- One command as written, operands not yet checked (R37). -/
structure Line where
  op       : Op
  operands : List Nat
deriving DecidableEq, Repr

/-- The widths in bits of an operation's operand fields, in the order they are written (R32, R37). -/
def Op.fieldWidths : Op → List Nat
  | .lookupDec => [8]
  | .lookupEnc => [8]
  | .repackDec => [6, 6, 6, 6]
  | .repackEnc => [8, 8, 8]

/-- There are as many operands as fields, and each fits its field: "An operand outside its field's range is
refused by the assembler" (R37). -/
def operandsFit : List Nat → List Nat → Bool
  | [], [] => true
  | w :: ws, n :: ns => n < 2 ^ w && operandsFit ws ns
  | _, _ => false

/-- The check the assembler makes of a line (R37). -/
def Line.wellFormed (l : Line) : Bool := operandsFit l.op.fieldWidths l.operands

/-- The line that spells an instruction (R37). -/
def Instr.line : Instr → Line
  | .lookupDec c => ⟨.lookupDec, [c.toNat]⟩
  | .lookupEnc i => ⟨.lookupEnc, [i.toNat]⟩
  | .repackDec g0 g1 g2 g3 => ⟨.repackDec, [g0.toNat, g1.toNat, g2.toNat, g3.toNat]⟩
  | .repackEnc b0 b1 b2 => ⟨.repackEnc, [b0.toNat, b1.toNat, b2.toNat]⟩

/-- An instruction is well formed when the line that spells it passes the assembler's check. By R34 every
instruction is: every value of every operand field is legal. -/
def Instr.wellFormed (i : Instr) : Bool := i.line.wellFormed

end Sys2Proof
end

