-- ==== Sys2Proof/Decode.lean ====
section
/-! DEFINITION. The decoder, the encoder and the opcode table: R30 to R36. -/

namespace Sys2Proof

open Sys2Proof.Machine (lane6 lane8 pack6 pack8)

/-- The value of the `op` field that selects an operation (R31). -/
def Op.bits : Op → BitVec 2
  | .lookupDec => 0b00#2
  | .lookupEnc => 0b01#2
  | .repackDec => 0b10#2
  | .repackEnc => 0b11#2

/-- The operation a value of the `op` field selects: all four are assigned (R31, R34). -/
def Op.ofBits (b : BitVec 2) : Op :=
  if b = 0b00#2 then .lookupDec
  else if b = 0b01#2 then .lookupEnc
  else if b = 0b10#2 then .repackDec
  else .repackEnc

/-- The transaction the two input ports present (R11, R12, R32). Lookups ignore `din[23:8]` (R33). -/
def decodePorts (op : BitVec 2) (din : Lanes) : Instr :=
  match Op.ofBits op with
  | .lookupDec => .lookupDec (lane8 din 0)
  | .lookupEnc => .lookupEnc (lane8 din 0)
  | .repackDec => .repackDec (lane6 din 0) (lane6 din 1) (lane6 din 2) (lane6 din 3)
  | .repackEnc => .repackEnc (lane8 din 0) (lane8 din 1) (lane8 din 2)

/-- `cmd[25:24]` drives `op` (R30). -/
def cmdOp (w : CmdWord) : BitVec 2 := w.extractLsb' 24 2

/-- `cmd[23:0]` drives `din` (R30). -/
def cmdDin (w : CmdWord) : Lanes := w.extractLsb' 0 24

/-- The decoder, total on the 2^26 command words (R34). -/
def decode (w : CmdWord) : Instr := decodePorts (cmdOp w) (cmdDin w)

/-- The `din` an instruction is presented with. The ignored bits of R33 are 0 (R37). -/
def Instr.din : Instr → Lanes
  | .lookupDec c => c.setWidth 24
  | .lookupEnc i => i.setWidth 24
  | .repackDec g0 g1 g2 g3 => pack6 g0 g1 g2 g3
  | .repackEnc b0 b1 b2 => pack8 b0 b1 b2

/-- The encoder: `{op, din}` (R30). -/
def encode (i : Instr) : CmdWord := i.op.bits ++ i.din

/-- Why a number is refused by the decoder. -/
inductive DecodeRefusal where
  /-- The number does not fit the 26 bits of a command word (R30). Safe: no command word is refused. -/
  | notACommandWord
deriving DecidableEq, Repr

/-- The decoder on any number: a command word is a number below 2^26 (R30). -/
def decodeNumber (n : Nat) : Except DecodeRefusal Instr :=
  if n < 2 ^ 26 then .ok (decode (BitVec.ofNat 26 n)) else .error .notACommandWord

/-- The decoder on a word numbered as the opcode table numbers it. All commands have one length (R30), so the
number of bits the table gives a row tells the decoder nothing that the word does not. -/
def decodeTableWord (_nbits w : Nat) : Option Instr :=
  match decodeNumber w with
  | .ok i => some i
  | .error _ => none

/-- A row of the opcode table: a word `w` is of this row when `w &&& mask = value`. -/
structure Row where
  op    : Op
  mask  : CmdWord
  value : CmdWord
deriving DecidableEq, Repr

/-- The table's row of an operation: mask and match as spec/opcode_table.json gives them. -/
def Op.row : Op → Row
  | .lookupDec => ⟨.lookupDec, 0x3000000#26, 0x0000000#26⟩
  | .lookupEnc => ⟨.lookupEnc, 0x3000000#26, 0x1000000#26⟩
  | .repackDec => ⟨.repackDec, 0x3000000#26, 0x2000000#26⟩
  | .repackEnc => ⟨.repackEnc, 0x3000000#26, 0x3000000#26⟩

/-- The opcode table, in its own order. -/
def opcodeTable : List Row := [Op.lookupDec.row, Op.lookupEnc.row, Op.repackDec.row, Op.repackEnc.row]

/-- A command word belongs to a row of the table. -/
def Row.matches (r : Row) (w : CmdWord) : Bool := w &&& r.mask == r.value

/-- The instruction a well-formed line spells; a line outside its fields' ranges is refused (R37). -/
def Line.instr? (l : Line) : Option Instr :=
  if l.wellFormed then
    match l.op, l.operands with
    | .lookupDec, [c] => some (.lookupDec (BitVec.ofNat 8 c))
    | .lookupEnc, [i] => some (.lookupEnc (BitVec.ofNat 8 i))
    | .repackDec, [g0, g1, g2, g3] =>
      some (.repackDec (BitVec.ofNat 6 g0) (BitVec.ofNat 6 g1) (BitVec.ofNat 6 g2) (BitVec.ofNat 6 g3))
    | .repackEnc, [b0, b1, b2] => some (.repackEnc (BitVec.ofNat 8 b0) (BitVec.ofNat 8 b1) (BitVec.ofNat 8 b2))
    | _, _ => none
  else none

end Sys2Proof
end

