-- ==== Sys2Proof/Machine/State.lean ====
section
/-! DEFINITION. The state: what stands on the block's ports, and the host's evaluation. The block itself has no
architectural state (R10). -/

namespace Sys2Proof.Machine

/-- The block's two fault causes (R90). `fcode = 0b11` is never driven, so there is no third (R15, I5). -/
inductive FaultCode where
  /-- LOOKUP.DEC on a code outside the alphabet (R42). -/
  | alphabet
  /-- LOOKUP.ENC on an index of 64 or more (R52). -/
  | tableIndex
deriving DecidableEq, Repr

/-- The result of one transaction (R16): a data result, or a fault that carries no data (R93, I2). -/
inductive Result where
  | ok (dout : Lanes)
  | fault (code : FaultCode)
deriving DecidableEq, Repr

/-- What the three output ports carry (R13, R14, R15). -/
structure Outputs where
  dout  : Lanes
  fault : Bool
  fcode : BitVec 2
deriving DecidableEq, Repr

/-- The errors an evaluation of the host ends with (R80, R84, R86, R91). -/
inductive HostError where
  /-- The input length is no multiple of 4 (R80). -/
  | length
  /-- The character at this index is the first outside the alphabet (R84, R92). -/
  | alphabet (index : Nat)
  /-- LOOKUP.ENC faulted, which cannot happen (R54, R86). -/
  | internal
deriving DecidableEq, Repr

/-- Why a step ends in a fault. -/
inductive Fault where
  /-- A transaction presented as such faulted; raised by the meanings of LOOKUP.DEC and LOOKUP.ENC (R90, R93).
  Safe: the fault carries no data, as R93 and I2 ask. -/
  | block (code : FaultCode)
  /-- An evaluation of the host was aborted; raised by the step (R80, R84, R86). Safe: no output is produced. -/
  | host (error : HostError)
deriving DecidableEq, Repr

/-- Why a step has no meaning. -/
inductive Refusal where
  /-- An instruction without a meaning; raised by no arm, since every instruction has one. Safe. -/
  | notModelled (mnemonic : String)
  /-- The host presents no transaction, so the outputs are not settled and there is no move; raised by the step
  (R100, R103, I3). Safe: nothing can be concluded about a sample that the host must not take. -/
  | noTransaction
  /-- decode was called with a declared length above 3n/4; raised by the step (R83, R91, I6). Safe: the call has no
  meaning. -/
  | declaredLength
deriving DecidableEq, Repr

/-- A decode evaluation under way (R81). -/
structure DecodeRun where
  /-- `declaredByteLength`. -/
  declared : Nat
  /-- The index `4j + t` of the next character. -/
  index    : Nat
  /-- The characters not yet looked up. -/
  todo     : List Byte
  /-- `s[0..t-1]` of the block under way. -/
  syms     : List Sextet
  /-- The bytes of the blocks done. -/
  out      : List Byte
deriving DecidableEq, Repr

/-- An encode evaluation while it issues REPACK.ENC (R85). -/
structure RepackRun where
  /-- `n`, the number of input bytes. -/
  length : Nat
  /-- The bytes not yet repacked. -/
  todo   : List Byte
  /-- The symbols of the blocks done. -/
  syms   : List Sextet
deriving DecidableEq, Repr

/-- An encode evaluation while it issues LOOKUP.ENC (R85). -/
structure LookupRun where
  /-- `n`, the number of input bytes. -/
  length : Nat
  /-- The kept symbols not yet looked up. -/
  todo   : List Sextet
  /-- The characters of the symbols done. -/
  text   : List Byte
deriving DecidableEq, Repr

/-- What the host is doing: it alone decides which transaction follows which (R17). -/
inductive Task where
  /-- Nothing is presented (R100). -/
  | idle
  /-- The host holds `op` and `din` on the ports: one transaction (R16). -/
  | hold
  /-- A list of command words to present in order, and the results they returned (R17, R30). -/
  | script (todo : List CmdWord) (results : List Lanes)
  /-- A call `decode(inputChars, L)` (R80, R101). -/
  | decodeCall (chars : List Byte) (declared : Nat)
  | decodeRun (run : DecodeRun)
  /-- A call `encode(inputBytes)` (R85, R101). -/
  | encodeCall (bytes : List Byte)
  | repackRun (run : RepackRun)
  | lookupRun (run : LookupRun)
  /-- The evaluation returned this sequence (R82, R86). -/
  | returned (bytes : List Byte)
deriving DecidableEq, Repr

/-- The ports of the block (R11 to R15) and the host's evaluation (R100). `dout`, `fault` and `fcode` are the outputs as
last sampled. DESIGN CHOICE (log 13), unsafe: they stand until the next sample, where the spec gives them any value while
the inputs are undriven or have not settled (R100, I3). `op` and `din` are the inputs as last presented. DESIGN CHOICE
(log 14), unsafe: they stand until the next word is presented, where the spec calls the inputs undriven while nothing is
presented and gives them no value (R100, I3). -/
structure State where
  op    : BitVec 2
  din   : Lanes
  dout  : Lanes
  fault : Bool
  fcode : BitVec 2
  task  : Task
deriving DecidableEq, Repr

/-- The machine right after reset (R100): no evaluation is under way and nothing is presented.
DESIGN CHOICE (log 1), unsafe: the spec gives the ports no value while the inputs are undriven; each is 0 here. -/
def State.reset : State where
  op    := 0#2
  din   := 0#24
  dout  := 0#24
  fault := false
  fcode := 0#2
  task  := .idle

end Sys2Proof.Machine
end

