-- ==== Sys2Proof/Machine/Flags.lean ====
section
/-! DEFINITION. The lookups' range indicators and validity counters (R40, R42, R50, R52), and the fault codes on
`fcode` (R15, R90). -/

namespace Sys2Proof.Machine

/-- `b01(p)`: 1 if `p` holds, else 0 (R6). -/
def b01 (p : Bool) : Int := if p then 1 else 0

/-- `ind_AZ` (R40). -/
def indAZ (c : Byte) : Int := b01 (65 ≤ c.toNat && c.toNat ≤ 90)
/-- `ind_az` (R40). -/
def indLowAZ (c : Byte) : Int := b01 (97 ≤ c.toNat && c.toNat ≤ 122)
/-- `ind_09` (R40). -/
def ind09 (c : Byte) : Int := b01 (48 ≤ c.toNat && c.toNat ≤ 57)
/-- `ind_plus` of LOOKUP.DEC (R40). -/
def indPlus (c : Byte) : Int := b01 (c.toNat == 43)
/-- `ind_slash` of LOOKUP.DEC (R40). -/
def indSlash (c : Byte) : Int := b01 (c.toNat == 47)
/-- `ind_pad` (R40). -/
def indPad (c : Byte) : Int := b01 (c.toNat == 61)

/-- The validity counter of LOOKUP.DEC (R42). -/
def decCount (c : Byte) : Int := indAZ c + indLowAZ c + ind09 c + indPlus c + indSlash c + indPad c

/-- `ind_up` (R50). -/
def indUp (i : Byte) : Int := b01 (0 ≤ i.toNat && i.toNat ≤ 25)
/-- `ind_lo` (R50). -/
def indLo (i : Byte) : Int := b01 (26 ≤ i.toNat && i.toNat ≤ 51)
/-- `ind_dg` (R50). -/
def indDg (i : Byte) : Int := b01 (52 ≤ i.toNat && i.toNat ≤ 61)
/-- `ind_plus` of LOOKUP.ENC (R50). -/
def indIdxPlus (i : Byte) : Int := b01 (i.toNat == 62)
/-- `ind_slash` of LOOKUP.ENC (R50). -/
def indIdxSlash (i : Byte) : Int := b01 (i.toNat == 63)

/-- The validity counter of LOOKUP.ENC (R52). -/
def encCount (i : Byte) : Int := indUp i + indLo i + indDg i + indIdxPlus i + indIdxSlash i

/-- The code of a fault cause on `fcode` (R15, R90). -/
def FaultCode.fcode : FaultCode → BitVec 2
  | .alphabet => 0b01#2
  | .tableIndex => 0b10#2

end Sys2Proof.Machine
end

