-- ==== Sys2Proof/Machine/Ops.lean ====
section
/-! DEFINITION. The operations on the ports that every instruction shares. -/

namespace Sys2Proof.Machine

/-- The outcome of a step. -/
abbrev Outcome := Host.Outcome State Fault Refusal

/-- The output ports take a data result: `dout <- d; fault <- 0; fcode <- 0b00` (R13, R14, R15). -/
def State.drive (s : State) (d : Lanes) : State :=
  { s with dout := d, fault := false, fcode := 0b00#2 }

/-- Raising a fault, the one operation for it (R93): a fault outcome that carries no data. -/
def raise (code : FaultCode) : Outcome := .fault (.block code)

/-- A transaction ends with its result: data on the output ports, or a fault outcome (R16). -/
def complete (s : State) : Result → Outcome
  | .ok d => .next (s.drive d)
  | .fault code => raise code

/-- What the output ports carry for a result (R13, R14, R15). While `fault = 1`, `dout` is the free value of
`Config.faultDout` at the transaction's inputs (I2, log 2). -/
def Result.outputs (op : BitVec 2) (din : Lanes) : Result → Outputs
  | .ok d => ⟨d, false, 0b00#2⟩
  | .fault code => ⟨Config.faultDout op din, true, code.fcode⟩

/-- What the host reads off the output ports: `dout` only when `fault = 0` (R87). Port values the block never
drives, `fcode = 0b11` among them, it refuses: none (I5). -/
def Outputs.read (o : Outputs) : Option Result :=
  match o.fault with
  | false => if o.fcode = 0b00#2 then some (.ok o.dout) else none
  | true =>
    if o.fcode = 0b01#2 then some (.fault .alphabet)
    else if o.fcode = 0b10#2 then some (.fault .tableIndex)
    else none

/-- The host presents a command word: `cmd[25:24]` on `op`, `cmd[23:0]` on `din` (R30). DESIGN CHOICE (log 13), unsafe:
until the transaction is sampled the output ports keep what was sampled last; the spec gives them any value (I3). -/
def State.present (s : State) (w : CmdWord) : State := { s with op := cmdOp w, din := cmdDin w }

/-- The host turns to another task. DESIGN CHOICE (log 13), unsafe: the output ports keep what was sampled last, also when
the new task presents nothing; the spec then gives them any value (R100, I3). DESIGN CHOICE (log 14), unsafe: the input
ports keep the word that was presented last, also when the new task presents nothing and the spec calls them undriven. -/
def State.turnTo (s : State) (t : Task) : State := { s with task := t }

/-- The instruction that stands on the ports (R11, R12). -/
def State.instr (s : State) : Instr := decodePorts s.op s.din

end Sys2Proof.Machine
end

