-- ==== Sys2Proof/Machine/LookupDec.lean ====
section
/-! DEFINITION. LOOKUP.DEC: R40 to R46. -/

namespace Sys2Proof.Machine

/-- The sum of R41 in exact integers. The '=' class contributes 0 (R41, C7). -/
def decValue (c : Byte) : Int :=
  indAZ c * (c.toNat - 65) + indLowAZ c * (c.toNat - 71) + ind09 c * (c.toNat + 4)
    + indPlus c * (c.toNat + 19) + indSlash c * (c.toNat + 16) + indPad c * 0

/-- LOOKUP.DEC as a function of its operand (R43): `zext_24(value[5:0])`, or a fault when the counter is not 1. -/
def lookupDecResult (c : Byte) : Result :=
  if decCount c ≠ 1 then .fault .alphabet
  else .ok ((BitVec.ofInt 6 (decValue c)).setWidth 24)

/-- The meaning of LOOKUP.DEC (R43). -/
def execLookupDec (c : Byte) (s : State) : Outcome := complete s (lookupDecResult c)

end Sys2Proof.Machine
end

