-- ==== Sys2Proof/Machine/LookupEnc.lean ====
section
/-! DEFINITION. LOOKUP.ENC: R50 to R56. -/

namespace Sys2Proof.Machine

/-- The sum of R51 in exact integers. -/
def encAscii (i : Byte) : Int :=
  indUp i * (i.toNat + 65) + indLo i * (i.toNat + 71) + indDg i * (i.toNat - 4)
    + indIdxPlus i * (i.toNat - 19) + indIdxSlash i * (i.toNat - 16)

/-- LOOKUP.ENC as a function of its operand (R53): `zext_24(ascii[7:0])`, or a fault when the counter is not 1. -/
def lookupEncResult (i : Byte) : Result :=
  if encCount i ≠ 1 then .fault .tableIndex
  else .ok ((BitVec.ofInt 8 (encAscii i)).setWidth 24)

/-- The meaning of LOOKUP.ENC (R53). -/
def execLookupEnc (i : Byte) (s : State) : Outcome := complete s (lookupEncResult i)

end Sys2Proof.Machine
end

