-- ==== Sys2Proof/Machine/RepackDec.lean ====
section
/-! DEFINITION. REPACK.DEC: R60 to R65. The bit lists are R60's own (C1, C2). -/

namespace Sys2Proof.Machine

/-- `Byte0` of R60, LSB first. -/
def repackByte0 (g0 g1 : Sextet) : Byte :=
  fromBitsLSB 8 [g1[4], g1[5], g0[0], g0[1], g0[2], g0[3], g0[4], g0[5]]

/-- `Byte1` of R60, LSB first. -/
def repackByte1 (g1 g2 : Sextet) : Byte :=
  fromBitsLSB 8 [g2[2], g2[3], g2[4], g2[5], g1[0], g1[1], g1[2], g1[3]]

/-- `Byte2` of R60, LSB first. -/
def repackByte2 (g2 g3 : Sextet) : Byte :=
  fromBitsLSB 8 [g3[0], g3[1], g3[2], g3[3], g3[4], g3[5], g2[0], g2[1]]

/-- REPACK.DEC as a function of its operands (R62): `{Byte2, Byte1, Byte0}`, never a fault. -/
def repackDecResult (g0 g1 g2 g3 : Sextet) : Result :=
  .ok (pack8 (repackByte0 g0 g1) (repackByte1 g1 g2) (repackByte2 g2 g3))

/-- The meaning of REPACK.DEC (R62). -/
def execRepackDec (g0 g1 g2 g3 : Sextet) (s : State) : Outcome := complete s (repackDecResult g0 g1 g2 g3)

end Sys2Proof.Machine
end

