-- ==== Sys2Proof/Machine/RepackEnc.lean ====
section
/-! DEFINITION. REPACK.ENC (R70 to R72), and the source's whole-stream repacker (R73). -/

namespace Sys2Proof.Machine

/-- The encode bit stream of a byte sequence, MSB first (R23, R70). -/
def byteStream (bytes : List Byte) : List Bool := bytes.flatMap bitsMSB

/-- Symbol `s_k` of a block: window `k` of its 24-bit stream (R70). -/
def repackSymbol (b0 b1 b2 : Byte) (k : Nat) : Sextet := windowSymbol (byteStream [b0, b1, b2]) k

/-- REPACK.ENC as a function of its operands (R72): `{s3, s2, s1, s0}`, never a fault. -/
def repackEncResult (b0 b1 b2 : Byte) : Result :=
  .ok (pack6 (repackSymbol b0 b1 b2 0) (repackSymbol b0 b1 b2 1) (repackSymbol b0 b1 b2 2) (repackSymbol b0 b1 b2 3))

/-- The meaning of REPACK.ENC (R72). -/
def execRepackEnc (b0 b1 b2 : Byte) (s : State) : Outcome := complete s (repackEncResult b0 b1 b2)

/-- `m = ceil(8n/6)`, the number of symbols of `n` bytes (R73). -/
def symbolCount (n : Nat) : Nat := (8 * n + 5) / 6

/-- "right-pad[s] with zero bits until the stream length is a multiple of 6" (R73). -/
def padStream (stream : List Bool) : List Bool :=
  stream ++ List.replicate ((6 - stream.length % 6) % 6) false

/-- The source's encode repacker on a whole input: one stream, zero-padded, sliced into `m` symbols (R73). -/
def streamSymbols (bytes : List Byte) : List Sextet :=
  (List.range (symbolCount bytes.length)).map (windowSymbol (padStream (byteStream bytes)))

end Sys2Proof.Machine
end

