-- ==== Sys2Proof/Machine/Dispatch.lean ====
section
/-! DEFINITION. One arm per instruction: R31's table of operations and rules. -/

namespace Sys2Proof.Machine

def exec (i : Instr) (s : State) : Host.Outcome State Fault Refusal :=
  match i with
  | .lookupDec c => Sys2Proof.Machine.execLookupDec c s
  | .lookupEnc idx => Sys2Proof.Machine.execLookupEnc idx s
  | .repackDec g0 g1 g2 g3 => Sys2Proof.Machine.execRepackDec g0 g1 g2 g3 s
  | .repackEnc b0 b1 b2 => Sys2Proof.Machine.execRepackEnc b0 b1 b2 s

end Sys2Proof.Machine
end

