-- ==== Sys2Proof/Machine/Transaction.lean ====
section
/-! DEFINITION. The block as a function of its inputs (R7, R16), with no state around it. -/

namespace Sys2Proof.Machine

/-- The result of an instruction (R7): a total function to a data result or a fault. -/
def instrResult : Instr → Result
  | .lookupDec c => lookupDecResult c
  | .lookupEnc i => lookupEncResult i
  | .repackDec g0 g1 g2 g3 => repackDecResult g0 g1 g2 g3
  | .repackEnc b0 b1 b2 => repackEncResult b0 b1 b2

/-- `step : Op × BitVec 24 → Result` of R16. -/
def transact (op : BitVec 2) (din : Lanes) : Result := instrResult (decodePorts op din)

/-- `issue(cmd)`: the host presents one command word and the block returns its result (45_host_composition.md). -/
def issue (w : CmdWord) : Result := transact (cmdOp w) (cmdDin w)

/-- What the output ports carry once the inputs have settled (R13, R14, R15, R100). -/
def settledOutputs (op : BitVec 2) (din : Lanes) : Outputs := (transact op din).outputs op din

/-- The machine as a faulted transaction leaves it, for whoever starts a new evaluation (R93, R95): the output ports
carry the fault, and the evaluation under way has ended with no output. The fault outcome itself carries none of it: that
this is the machine found after a fault is DEDUCED (log 3). DESIGN CHOICE (logs 13 and 14), unsafe: though nothing is
presented any more, the output ports keep the fault, and the input ports keep the word that faulted, where the spec calls
the inputs undriven and gives neither a value (R100, I3). -/
def State.afterFault (s : State) : State :=
  let o := settledOutputs s.op s.din
  { s with dout := o.dout, fault := o.fault, fcode := o.fcode, task := .idle }

end Sys2Proof.Machine
end

