-- ==== Sys2Proof/Machine/Codec.lean ====
section
/-! DEFINITION. The host's duties as functions over `issue`: the pseudo-instructions of R38 and the decode and
encode orchestrators of R80 to R89. Machine/Orchestrator.lean runs the same evaluations one transaction a step. -/

namespace Sys2Proof.Machine

/-- How an evaluation of the host ends (R80 to R86). -/
inductive Evaluation where
  | output (bytes : List Byte)
  | error (e : HostError)
  /-- The call has no meaning: neither a fault nor an error (R83, R91). -/
  | refused
deriving DecidableEq, Repr

/-- One `LOOKUP.DEC c`: the symbol in `dout[5:0]`, or the fault and the index it was issued at (R81, R84). -/
def lookupChar (index : Nat) (c : Byte) : Except (Nat × FaultCode) Sextet :=
  match issue (encode (.lookupDec c)) with
  | .ok d => .ok (lane6 d 0)
  | .fault code => .error (index, code)

/-- The expansion of DECODE.BLOCK (R38): four lookups in order, then REPACK.DEC on their symbols. It ends with the
fault of the first faulting lookup; `index` is the index of `c0`. -/
def decodeBlockAt (index : Nat) (c0 c1 c2 c3 : Byte) : Except (Nat × FaultCode) Lanes := do
  let s0 ← lookupChar index c0
  let s1 ← lookupChar (index + 1) c1
  let s2 ← lookupChar (index + 2) c2
  let s3 ← lookupChar (index + 3) c3
  match issue (encode (.repackDec s0 s1 s2 s3)) with
  | .ok d => .ok d
  | .fault code => .error (index, code)

/-- The pseudo-instruction DECODE.BLOCK (R38). -/
def decodeBlock (c0 c1 c2 c3 : Byte) : Result :=
  match decodeBlockAt 0 c0 c1 c2 c3 with
  | .ok d => .ok d
  | .error (_, code) => .fault code

/-- The block loop of decode (R81): every block in order, three bytes each, up to the first fault (R84). -/
def decodeBlocks (index : Nat) : List Byte → Except HostError (List Byte)
  | c0 :: c1 :: c2 :: c3 :: rest =>
    match decodeBlockAt index c0 c1 c2 c3 with
    | .error (k, _) => .error (.alphabet k)
    | .ok d =>
      match decodeBlocks (index + 4) rest with
      | .error e => .error e
      | .ok out => .ok (lane8 d 0 :: lane8 d 1 :: lane8 d 2 :: out)
  | _ => .ok []

/-- `decode(inputChars, L)`: the length check (R80), the bound on `L` (R83), the block loop (R81, R84) and the
truncation (R82), in that order (R92). R88's properties of it are `EndToEnd` in Safety.lean. -/
def hostDecode (chars : List Byte) (declared : Nat) : Evaluation :=
  if chars.length % 4 ≠ 0 then .error .length
  else if 3 * (chars.length / 4) < declared then .refused
  else
    match decodeBlocks 0 chars with
    | .error e => .error e
    | .ok out => .output (out.take declared)

/-- One `REPACK.ENC b0, b1, b2`: the four symbols of `dout` in lane order (R85). REPACK.ENC never faults (R72); a
fault would be the internal error of R86. -/
def repackBlock (b0 b1 b2 : Byte) : Except HostError (List Sextet) :=
  match issue (encode (.repackEnc b0 b1 b2)) with
  | .ok d => .ok [lane6 d 0, lane6 d 1, lane6 d 2, lane6 d 3]
  | .fault _ => .error .internal

/-- The block loop of encode (R85), 0 presented for a missing byte (R74): four symbols a block. -/
def encodeBlocks : List Byte → Except HostError (List Sextet)
  | [] => .ok []
  | [b0] => repackBlock b0 0#8 0#8
  | [b0, b1] => repackBlock b0 b1 0#8
  | b0 :: b1 :: b2 :: rest => do
    let four ← repackBlock b0 b1 b2
    let syms ← encodeBlocks rest
    .ok (four ++ syms)

/-- One `LOOKUP.ENC` a symbol, in order (R85); a fault is the internal error of R86. -/
def lookupText : List Sextet → Except HostError (List Byte)
  | [] => .ok []
  | s :: syms =>
    match issue (encode (.lookupEnc (s.setWidth 8))) with
    | .fault _ => .error .internal
    | .ok d =>
      match lookupText syms with
      | .error e => .error e
      | .ok text => .ok (lane8 d 0 :: text)

/-- `p`, the number of '=' the host appends (R86). -/
def padCount (n : Nat) : Nat := if n % 3 = 0 then 0 else 3 - n % 3

/-- The character '='. -/
def padChar : Byte := 61#8

/-- `encode(inputBytes)` (R85, R86). R88's properties of it are `EndToEnd` in Safety.lean. -/
def hostEncode (bytes : List Byte) : Evaluation :=
  let text := do
    let syms ← encodeBlocks bytes
    lookupText (syms.take (symbolCount bytes.length))
  match text with
  | .error e => .error e
  | .ok t => .output (t ++ List.replicate (padCount bytes.length) padChar)

/-- The pseudo-instruction ENCODE.BLOCK (R38): REPACK.ENC, then LOOKUP.ENC on each of its four lanes. -/
def encodeBlock (b0 b1 b2 : Byte) : Except HostError (List Byte) := do
  let syms ← repackBlock b0 b1 b2
  lookupText syms

end Sys2Proof.Machine
end

