-- ==== Sys2Proof/Machine/Orchestrator.lean ====
section
/-! DEFINITION. The host as an agent (R17, R80 to R87): which transaction it presents next, and what it does with the
answer. One step of the machine is one transaction, or one move of the host between transactions. -/

namespace Sys2Proof.Machine

/-- What the host does next. -/
inductive Move where
  /-- Hold the inputs that stand on the ports (R16). -/
  | sample
  /-- Present a command word (R30). -/
  | issue (w : CmdWord)
  /-- Go on without a transaction. -/
  | turn (t : Task)
  /-- End the evaluation with an error (R80). -/
  | error (e : HostError)
  | refuse (r : Refusal)
deriving DecidableEq, Repr

/-- The call of decode (R80, R83): the length check precedes everything (R92); `out` starts empty (R100). -/
def decodeCallMove (chars : List Byte) (declared : Nat) : Move :=
  if chars.length % 4 ≠ 0 then .error .length
  else if 3 * (chars.length / 4) < declared then .refuse .declaredLength
  else .turn (.decodeRun ⟨declared, 0, chars, [], []⟩)

/-- The next transaction of decode: REPACK.DEC once all four lookups of the block have returned (R102), else the next
character's LOOKUP.DEC (R81). With no character left, the truncated result is returned (R82). -/
def DecodeRun.move (r : DecodeRun) : Move :=
  match r.syms, r.todo with
  | [s0, s1, s2, s3], _ => .issue (encode (.repackDec s0 s1 s2 s3))
  | _, c :: _ => .issue (encode (.lookupDec c))
  | _, [] => .turn (.returned (r.out.take r.declared))

/-- What decode does with the data result of its transaction (R81). -/
def DecodeRun.absorb (r : DecodeRun) (d : Lanes) : DecodeRun :=
  match r.syms with
  | [_, _, _, _] => { r with syms := [], out := r.out ++ [lane8 d 0, lane8 d 1, lane8 d 2] }
  | _ => { r with index := r.index + 1, todo := r.todo.tail, syms := r.syms ++ [lane6 d 0] }

/-- The next REPACK.ENC of encode, 0 presented for a missing byte (R74, R85). With no byte left, the first `m` symbols
are kept and the lookups begin. -/
def RepackRun.move (r : RepackRun) : Move :=
  match r.todo with
  | [] => .turn (.lookupRun ⟨r.length, r.syms.take (symbolCount r.length), []⟩)
  | [b0] => .issue (encode (.repackEnc b0 0#8 0#8))
  | [b0, b1] => .issue (encode (.repackEnc b0 b1 0#8))
  | b0 :: b1 :: b2 :: _ => .issue (encode (.repackEnc b0 b1 b2))

/-- What encode does with the data result of a REPACK.ENC (R85). -/
def RepackRun.absorb (r : RepackRun) (d : Lanes) : RepackRun :=
  { r with todo := r.todo.drop 3, syms := r.syms ++ [lane6 d 0, lane6 d 1, lane6 d 2, lane6 d 3] }

/-- The next LOOKUP.ENC of encode (R85). With no symbol left, the padded text is returned (R86). -/
def LookupRun.move (r : LookupRun) : Move :=
  match r.todo with
  | [] => .turn (.returned (r.text ++ List.replicate (padCount r.length) padChar))
  | s :: _ => .issue (encode (.lookupEnc (s.setWidth 8)))

/-- What encode does with the data result of a LOOKUP.ENC (R85). -/
def LookupRun.absorb (r : LookupRun) (d : Lanes) : LookupRun :=
  { r with todo := r.todo.tail, text := r.text ++ [lane8 d 0] }

/-- What the host does next (R17). -/
def Task.move : Task → Move
  | .idle => .refuse .noTransaction
  | .hold => .sample
  | .script [] _ => .refuse .noTransaction
  | .script (w :: _) _ => .issue w
  | .decodeCall chars declared => decodeCallMove chars declared
  | .decodeRun r => r.move
  | .encodeCall bytes => .turn (.repackRun ⟨bytes.length, bytes, []⟩)
  | .repackRun r => r.move
  | .lookupRun r => r.move
  | .returned _ => .refuse .noTransaction

/-- What the host does with a data result `d` (R87). A task that issues nothing is left alone. -/
def Task.absorb (t : Task) (d : Lanes) : Task :=
  match t with
  | .script (_ :: ws) results => .script ws (results ++ [d])
  | .decodeRun r => .decodeRun (r.absorb d)
  | .repackRun r => .repackRun (r.absorb d)
  | .lookupRun r => .lookupRun (r.absorb d)
  | t => t

/-- What a block fault ends in (R93): an evaluation is aborted, decode with the index of the faulting character (R84),
encode with the internal error (R86). A transaction presented as such ends with the block's own fault. -/
def Task.abort (t : Task) (code : FaultCode) : Fault :=
  match t with
  | .decodeRun r => .host (.alphabet r.index)
  | .repackRun _ => .host .internal
  | .lookupRun _ => .host .internal
  | _ => .block code

/-- The host takes the outcome of the transaction it presented (R84, R87). -/
def answer (t : Task) : Outcome → Outcome
  | .next s => .next (s.turnTo (t.absorb s.dout))
  | .fault (.block code) => .fault (t.abort code)
  | .fault f => .fault f
  | .refused r => .refused r

end Sys2Proof.Machine
end

