-- ==== Sys2Proof/Machine/Step.lean ====
section
/-! DEFINITION. One step of host plus block: the host's move, and around a transaction the block's answer. -/

namespace Sys2Proof.Machine

/-- The instruction on the ports runs, and the host takes its outcome (R16, R87). -/
def transactionStep (s : State) : Outcome := answer s.task (exec s.instr s)

/-- One step: one transaction, or one move of the host between transactions (R16, R17, R25). -/
def step (s : State) : Host.Outcome State Fault Refusal :=
  match s.task.move with
  | .sample => transactionStep s
  | .issue w => transactionStep (s.present w)
  | .turn t => .next (s.turnTo t)
  | .error e => .fault (.host e)
  | .refuse r => .refused r

/-- The instruction `w` placed where the next step fetches it: on the ports, held there by the host. DESIGN CHOICE
(log 13), unsafe: the output ports keep what was sampled last until that step; the spec gives them any value (I3). -/
def State.withFetchWord (s : State) (_nbits w : Nat) : State :=
  (s.present (BitVec.ofNat 26 w)).turnTo .hold

end Sys2Proof.Machine
end

