-- ==== Sys2Proof/Machine/Assembler.lean ====
section
/-! DEFINITION. The assembler's text, one command a line, and its disassembly: R37. What R37 leaves open is log 6. -/

namespace Sys2Proof.Machine

/-- The mnemonic of an operation (R31). -/
def opMnemonic : Op → List Char
  | .lookupDec => "LOOKUP.DEC".toList
  | .lookupEnc => "LOOKUP.ENC".toList
  | .repackDec => "REPACK.DEC".toList
  | .repackEnc => "REPACK.ENC".toList

/-- The operation a mnemonic names. -/
def mnemonicOp (m : List Char) : Option Op :=
  [Op.lookupDec, .lookupEnc, .repackDec, .repackEnc].find? (fun op => opMnemonic op == m)

/-- A piece of a line: a word, a quoted character, or a comma. -/
inductive Token where
  | word (cs : List Char)
  | quoted (c : Char)
  | comma
deriving DecidableEq, Repr

/-- The word read so far, if any. -/
def flushWord (acc : List Char) : List Token := if acc.isEmpty then [] else [.word acc]

/-- Splits a line into tokens. DESIGN CHOICE (log 6): a word ends at a blank, a comma, a `;` or a quoted character, so no
blank need stand before a quoted operand; a `;` outside quotes ends the line. -/
def lexLine (acc : List Char) : List Char → List Token
  | [] => flushWord acc
  | '\'' :: c :: '\'' :: rest => flushWord acc ++ .quoted c :: lexLine [] rest
  | ' ' :: rest => flushWord acc ++ lexLine [] rest
  | ',' :: rest => flushWord acc ++ .comma :: lexLine [] rest
  | ';' :: _ => flushWord acc
  | c :: rest => lexLine (acc ++ [c]) rest

/-- The value of a digit in a base up to 16. Hexadecimal letters may be of either case (log 6). -/
def digitValue (base : Nat) (c : Char) : Option Nat :=
  let n := c.toNat
  let v := if 48 ≤ n && n ≤ 57 then n - 48 else if 65 ≤ n && n ≤ 70 then n - 55 else if 97 ≤ n && n ≤ 102 then n - 87 else 16
  if v < base then some v else none

/-- The number a list of digits spells, after the digits read so far. -/
def digitsValue (base acc : Nat) : List Char → Option Nat
  | [] => some acc
  | c :: cs =>
    match digitValue base c with
    | some v => digitsValue base (base * acc + v) cs
    | none => none

/-- The value of an operand (R37): decimal, `0x` hex, `0b` binary, or one quoted ASCII character. -/
def operandValue : Token → Option Nat
  | .quoted c => if c.toNat < 128 then some c.toNat else none
  | .word ('0' :: 'x' :: d :: ds) => digitsValue 16 0 (d :: ds)
  | .word ('0' :: 'b' :: d :: ds) => digitsValue 2 0 (d :: ds)
  | .word (d :: ds) => digitsValue 10 0 (d :: ds)
  | _ => none

/-- Operands separated by commas (R37). -/
def operandValues : List Token → Option (List Nat)
  | [t] => (operandValue t).map (fun n => [n])
  | t :: .comma :: rest =>
    match operandValue t, operandValues rest with
    | some n, some ns => some (n :: ns)
    | _, _ => none
  | _ => none

/-- A line: "a mnemonic, then its operands separated by commas" (R37). -/
def parseLine (text : List Char) : Option Line :=
  match lexLine [] text with
  | .word m :: rest =>
    match mnemonicOp m, operandValues rest with
    | some op, some ns => some ⟨op, ns⟩
    | _, _ => none
  | _ => none

/-- The assembler (R37): the command word of a line, its ignored bits 0, or none where the line is refused. -/
def assemble (text : List Char) : Option CmdWord := ((parseLine text).bind Line.instr?).map encode

/-- A decimal digit. -/
def decimalDigit (n : Nat) : Char := Char.ofNat (48 + n % 10)

/-- An operand in decimal; operands are below 256 (R32). -/
def decimalText (n : Nat) : List Char :=
  if n < 10 then [decimalDigit n]
  else if n < 100 then [decimalDigit (n / 10), decimalDigit n]
  else [decimalDigit (n / 100), decimalDigit (n / 10), decimalDigit n]

/-- Operands in decimal, separated by commas (R37). -/
def operandsText : List Nat → List Char
  | [] => []
  | [n] => decimalText n
  | n :: ns => decimalText n ++ [',', ' '] ++ operandsText ns

/-- The quoted character that disassembly adds for LOOKUP.DEC when the code is printable ASCII (R37); it stands after a
`;` (log 6). -/
def printableNote : Instr → List Char
  | .lookupDec c =>
    if 32 ≤ c.toNat && c.toNat ≤ 126 then [' ', ';', ' ', '\'', Char.ofNat c.toNat, '\''] else []
  | _ => []

/-- Disassembly (R37). -/
def disassemble (w : CmdWord) : List Char :=
  opMnemonic (decode w).op ++ [' '] ++ operandsText (decode w).line.operands ++ printableNote (decode w)

end Sys2Proof.Machine
end

