-- ==== Sys2Proof/Safety.lean ====
section
/-! DEFINITION. The terms claims use: the spec's tables of the lookups, what a well-formed evaluation and a sound state
are, and the standard base64 decoding of R88. -/

namespace Sys2Proof.Machine

/-- The complete mapping of LOOKUP.DEC (R46): the symbol of a character, or none where it faults. -/
def decTable (c : Byte) : Option Sextet :=
  if 65 ≤ c.toNat ∧ c.toNat ≤ 90 then some (BitVec.ofNat 6 (c.toNat - 65))
  else if 97 ≤ c.toNat ∧ c.toNat ≤ 122 then some (BitVec.ofNat 6 (c.toNat - 71))
  else if 48 ≤ c.toNat ∧ c.toNat ≤ 57 then some (BitVec.ofNat 6 (c.toNat + 4))
  else if c.toNat = 43 then some 62#6
  else if c.toNat = 47 then some 63#6
  else if c.toNat = 61 then some 0#6
  else none

/-- The complete mapping of LOOKUP.ENC (R56): the character of an index, or none where it faults. -/
def encTable (i : Byte) : Option Byte :=
  if i.toNat ≤ 25 then some (BitVec.ofNat 8 (i.toNat + 65))
  else if i.toNat ≤ 51 then some (BitVec.ofNat 8 (i.toNat + 71))
  else if i.toNat ≤ 61 then some (BitVec.ofNat 8 (i.toNat - 4))
  else if i.toNat = 62 then some 43#8
  else if i.toNat = 63 then some 47#8
  else none

/-- One of the 65 codes of the alphabet (R43, R46). -/
def inAlphabet (c : Byte) : Bool := (decTable c).isSome

/-- The 64 characters in the order of their values: the per-character listing of R46. -/
def alphabetText : List Byte :=
  ("ABCDEFGHIJKLMNOPQRSTUVWXYZabcdefghijklmnopqrstuvwxyz0123456789+/".toList).map
    (fun c => BitVec.ofNat 8 c.toNat)

/-- A decode evaluation is well formed: `index = 4j + t` with `t` symbols waiting and `3j` bytes out, the whole input
a multiple of 4, and `L ≤ 3n/4` (R80, R81, R83). -/
def DecodeRun.wf (r : DecodeRun) : Bool :=
  r.out.length % 3 == 0 && r.syms.length ≤ 4 && r.index == 4 * (r.out.length / 3) + r.syms.length
    && (r.index + r.todo.length) % 4 == 0 && r.declared ≤ 3 * ((r.index + r.todo.length) / 4)

/-- An encode evaluation in its first loop is well formed: four symbols a block done, and the blocks done account for
the bytes no longer waiting (R85). -/
def RepackRun.wf (r : RepackRun) : Bool :=
  r.syms.length % 4 == 0 &&
    (if r.todo = [] then r.syms.length == 4 * ((r.length + 2) / 3)
     else r.length == 3 * (r.syms.length / 4) + r.todo.length)

/-- An encode evaluation in its second loop is well formed: `m` symbols in all (R85). -/
def LookupRun.wf (r : LookupRun) : Bool := r.text.length + r.todo.length == symbolCount r.length

/-- The host's evaluation is well formed. -/
def Task.wf : Task → Bool
  | .decodeRun r => r.wf
  | .repackRun r => r.wf
  | .lookupRun r => r.wf
  | .idle | .hold | .script _ _ | .decodeCall _ _ | .encodeCall _ | .returned _ => true

/-- A sound state: `fcode = 0b00` exactly when `fault = 0`, `fcode` is never `0b11` (R15), and the host's evaluation is
well formed. -/
def State.sound (s : State) : Bool := (s.fcode == 0b00#2) == !s.fault && s.fcode != 0b11#2 && s.task.wf

/-- The bits of a symbol, bit 5 first (R23). -/
def symbolBitsMSB (s : Sextet) : List Bool := [s[5], s[4], s[3], s[2], s[1], s[0]]

/-- The value of a character: its place in the listing of R46. -/
def charSymbol (c : Byte) : Sextet := BitVec.ofNat 6 (alphabetText.idxOf c)

/-- PRESUMED (log 7): the standard base64 decoding that R88 refers to. The symbols' bits are written MSB first and cut
into whole bytes; a rest of fewer than 8 bits is dropped. `body` is the text without its padding. -/
def standardDecode (body : List Byte) : List Byte :=
  (List.range (6 * body.length / 8)).map fun k =>
    fromBitsLSB 8 (((body.flatMap fun c => symbolBitsMSB (charSymbol c)).drop (8 * k)).take 8).reverse

/-- PRESUMED (log 7): `body` followed by `pad` copies of '=' is a canonical base64 string: whole blocks, only characters
of the listing of R46, at most two '=', and the bits of the last symbol that reach no whole byte are 0. -/
def canonical (body : List Byte) (pad : Nat) : Bool :=
  (body.length + pad) % 4 == 0 && pad ≤ 2 && body.all (fun c => alphabetText.contains c)
    && ((body.flatMap fun c => symbolBitsMSB (charSymbol c)).drop (8 * (6 * body.length / 8))).all (fun b => !b)

/-- Two runs end alike: with the same task of the host, or with the same fault, or with the same refusal. -/
def endsAlike : Outcome → Outcome → Prop
  | .next s, .next t => s.task = t.task
  | .fault f, .fault g => f = g
  | .refused q, .refused r => q = r
  | _, _ => False

/-- The six properties that a model of host plus block satisfies (R88), of a decode and an encode, and of the machine
for determinism. `hostDecode` and `hostEncode` are the ones R88 is about. -/
structure EndToEnd (decode : List Byte → Nat → Evaluation) (encode : List Byte → Evaluation) : Prop where
  /-- "Round-trip: `decode(encode(B), len(B)) == B` for every byte sequence `B`" (R88). -/
  roundTrip : ∀ bytes, ∃ text, encode bytes = .output text ∧ decode text bytes.length = .output bytes
  /-- "Length invariant: `len(encode(B)) == 4 * ceil(len(B)/3)`" (R88). -/
  lengthInvariant : ∀ bytes text, encode bytes = .output text → text.length = 4 * ((bytes.length + 2) / 3)
  /-- "Determinism: equal inputs give equal outputs" (R88), of the machine: after any number of steps the same task has
  come to the same end, whatever stood on the ports. Only in task `hold` are the ports themselves the input. -/
  determinism : ∀ (task : Task) (s s' : State) (k : Nat), task ≠ .hold →
    endsAlike (Host.Core.run core k (s.turnTo task)) (Host.Core.run core k (s'.turnTo task))
  /-- "Alphabet rejection: decode aborts for any input containing a byte outside `[A-Za-z0-9+/=]`" (R88): it gives no
  output, and where the lengths are legal it ends with the alphabet error. -/
  alphabetRejection : ∀ chars declared, (∃ c ∈ chars, inAlphabet c = false) →
    (∀ out, decode chars declared ≠ .output out) ∧
    (chars.length % 4 = 0 → declared ≤ 3 * (chars.length / 4) → ∃ k, decode chars declared = .error (.alphabet k))
  /-- "Length rejection: decode aborts when `n mod 4 != 0`" (R88). -/
  lengthRejection : ∀ chars declared, chars.length % 4 ≠ 0 → decode chars declared = .error .length
  /-- "Reference agreement" (R88); PRESUMED (log 7): what canonical text and standard decoding are. -/
  referenceAgreement : ∀ body pad, canonical body pad = true →
    decode (body ++ List.replicate pad padChar) (6 * body.length / 8) = .output (standardDecode body)

end Sys2Proof.Machine
end

