-- ==== Sys2Proof/Certificates/Slice0/Obligations.lean ====
section
/-! DEFINITION. The statements for the provers. Each says in its docstring which rule of spec/ it formalises. -/

open Sys2Proof Sys2Proof.Machine

/-! ### Encoding -/

/-- Rules R30, R32: no operand bit is dropped by the encoding. -/
def Obligations.EncodedInstructionDecodesBack : Prop := ∀ i : Instr, decode (encode i) = i

/-- Rules R30, R33, R37: a command word is the encoding of its instruction, up to the bits a lookup ignores, which are
assembled as 0. -/
def Obligations.DecodedWordEncodesBack : Prop :=
  ∀ w : CmdWord, encode (decode w) =
    match (decode w).op with
    | .lookupDec | .lookupEnc => w &&& 0x30000FF#26
    | .repackDec | .repackEnc => w

/-- Rules R31, R34: every command word is of exactly one row of the opcode table, and decodes to that row's
operation. -/
def Obligations.EveryWordMatchesExactlyItsRow : Prop :=
  ∀ w : CmdWord, opcodeTable.filter (fun r => r.matches w) = [(decode w).op.row]

/-- The command words of the worked examples (41 to 44, §2 of each) and one spelling with ignored bits set (95 §2.1). -/
def Obligations.WorkedExampleWordsDecode : Prop :=
  decode 0x0000054#26 = .lookupDec 84#8 ∧ decode 0x0FFFF54#26 = .lookupDec 84#8 ∧
  decode 0x100002E#26 = .lookupEnc 46#8 ∧ decode 0x2B85593#26 = .repackDec 19#6 22#6 5#6 46#6 ∧
  decode 0x36E614D#26 = .repackEnc 0x4D#8 0x61#8 0x6E#8

/-- Rule R37: the assembler accepts a line exactly when every operand is inside its field's range, and the instruction
it gives is the one the line spells. -/
def Obligations.AssemblerRefusesExactlyOutOfRangeLines : Prop :=
  ∀ l : Line, (l.wellFormed = true → ∃ i, l.instr? = some i ∧ i.line = l) ∧ (l.wellFormed = false → l.instr? = none)

/-- Rule R34: every instruction is well formed. -/
def Obligations.EveryInstructionWellFormed : Prop := ∀ i : Instr, i.wellFormed = true

/-- Rule R37: what disassembly prints of a command, the assembler reads back. How the printed character is set off from
the operands is the model's choice (log 6). -/
def Obligations.DisassemblyAssemblesBack : Prop :=
  ∀ i : Instr, assemble (disassemble (encode i)) = some (encode i)

/-! ### The four operations -/

/-- Rules R43, R46: LOOKUP.DEC completes on each of the 65 codes of the alphabet, with the symbol of R46's table in
`dout[5:0]`, the rest of `dout` 0, and no fault. -/
def Obligations.LookupDecCompletes : Prop :=
  ∀ (c : Byte) (v : Sextet) (s : State), decTable c = some v →
    exec (.lookupDec c) s = .next { s with dout := v.setWidth 24, fault := false, fcode := 0b00#2 }

/-- Rules R43, R46: a LOOKUP.DEC transaction reads `c = din[7:0]` and no other bit of `din`; it ends with the symbol of
R46's table, or with ALPHABET for every character the table does not list. -/
def Obligations.LookupDecTransaction : Prop :=
  ∀ s : State, s.task = .hold → s.op = 0b00#2 →
    (∀ v, decTable (lane8 s.din 0) = some v →
      step s = .next { s with dout := v.setWidth 24, fault := false, fcode := 0b00#2 }) ∧
    (decTable (lane8 s.din 0) = none → step s = .fault (.block .alphabet))

/-- Rule R42: the validity counter is 0 or 1; when it is not 1 the transaction faults with ALPHABET, which is exactly
when the character lies in no class. -/
def Obligations.LookupDecFaultsExactlyOutsideAlphabet : Prop :=
  ∀ (c : Byte) (s : State),
    (decCount c = 0 ∨ decCount c = 1) ∧
    (decCount c ≠ 1 → exec (.lookupDec c) s = .fault (.block .alphabet)) ∧
    (exec (.lookupDec c) s = .fault (.block .alphabet) ↔
      ¬(65 ≤ c.toNat ∧ c.toNat ≤ 90 ∨ 97 ≤ c.toNat ∧ c.toNat ≤ 122 ∨ 48 ≤ c.toNat ∧ c.toNat ≤ 57 ∨
        c.toNat = 43 ∨ c.toNat = 47 ∨ c.toNat = 61))

/-- Rule R44: '=' passes the validity check with value 0, the value of 'A'. -/
def Obligations.PadCharacterReadsAsA : Prop :=
  ∀ s : State, exec (.lookupDec padChar) s = .next { s with dout := 0#24, fault := false, fcode := 0b00#2 } ∧
    exec (.lookupDec padChar) s = exec (.lookupDec 65#8) s

/-- Rules R53, R56: LOOKUP.ENC completes on every index up to 63, with the character of R56's table in `dout[7:0]`, the
rest of `dout` 0, and no fault. -/
def Obligations.LookupEncCompletes : Prop :=
  ∀ (i a : Byte) (s : State), encTable i = some a →
    exec (.lookupEnc i) s = .next { s with dout := a.setWidth 24, fault := false, fcode := 0b00#2 }

/-- Rule R53: a LOOKUP.ENC transaction reads `i = din[7:0]` and no other bit of `din`; for `i ≤ 63` it ends with the
character of R56's table, and otherwise with TABLE_INDEX. -/
def Obligations.LookupEncTransaction : Prop :=
  ∀ s : State, s.task = .hold → s.op = 0b01#2 →
    ((lane8 s.din 0).toNat ≤ 63 → ∃ a, encTable (lane8 s.din 0) = some a ∧
      step s = .next { s with dout := a.setWidth 24, fault := false, fcode := 0b00#2 }) ∧
    (63 < (lane8 s.din 0).toNat → step s = .fault (.block .tableIndex))

/-- Rule R52: the validity counter is 1 for an index up to 63 and 0 above, and when it is not 1 the transaction faults
with TABLE_INDEX. -/
def Obligations.LookupEncFaultsExactlyAbove63 : Prop :=
  ∀ (i : Byte) (s : State),
    (i.toNat ≤ 63 → encCount i = 1) ∧ (64 ≤ i.toNat → encCount i = 0) ∧
    (encCount i ≠ 1 → exec (.lookupEnc i) s = .fault (.block .tableIndex)) ∧
    (exec (.lookupEnc i) s = .fault (.block .tableIndex) ↔ 64 ≤ i.toNat)

/-- Rule R56: LOOKUP.DEC undoes LOOKUP.ENC on every index up to 63, and LOOKUP.ENC undoes LOOKUP.DEC on every character
of the alphabet but '='. -/
def Obligations.LookupsAreInverse : Prop :=
  (∀ i : Byte, i.toNat ≤ 63 → ∃ d, issue (encode (.lookupEnc i)) = .ok d ∧
    issue (encode (.lookupDec (lane8 d 0))) = .ok (i.setWidth 24)) ∧
  (∀ c : Byte, inAlphabet c = true → c ≠ padChar → ∃ d, issue (encode (.lookupDec c)) = .ok d ∧
    issue (encode (.lookupEnc (lane8 d 0))) = .ok (c.setWidth 24))

/-- Rule R61: REPACK.DEC always completes, with the bytes of R61's value formulas, which are the symbols'
big-endian group. -/
def Obligations.RepackDecCompletes : Prop :=
  ∀ (g0 g1 g2 g3 : Sextet) (s : State),
    let b0 : Byte := (g0.setWidth 8 <<< 2) ||| (g1.setWidth 8 >>> 4)
    let b1 : Byte := ((g1.setWidth 8 &&& 0xF#8) <<< 4) ||| (g2.setWidth 8 >>> 2)
    let b2 : Byte := ((g2.setWidth 8 &&& 0x3#8) <<< 6) ||| g3.setWidth 8
    exec (.repackDec g0 g1 g2 g3) s =
      .next { s with dout := b2 ++ b1 ++ b0, fault := false, fcode := 0b00#2 } ∧
    (g0 ++ g1 ++ g2 ++ g3 : BitVec 24) = (b0 ++ b1 ++ b2 : BitVec 24)

/-- Rules R60, R62: a REPACK.DEC transaction never faults, and wires `din` to `dout` as R60 says, in its own `dout`
positions. -/
def Obligations.RepackDecTransaction : Prop :=
  ∀ s : State, s.task = .hold → s.op = 0b10#2 →
    ∃ d, step s = .next { s with dout := d, fault := false, fcode := 0b00#2 } ∧
      d.extractLsb' 0 2 = s.din.extractLsb' 10 2 ∧ d.extractLsb' 2 6 = s.din.extractLsb' 0 6 ∧
      d.extractLsb' 8 4 = s.din.extractLsb' 14 4 ∧ d.extractLsb' 12 4 = s.din.extractLsb' 6 4 ∧
      d.extractLsb' 16 6 = s.din.extractLsb' 18 6 ∧ d.extractLsb' 22 2 = s.din.extractLsb' 12 2

/-- Rule R71: REPACK.ENC always completes, with the symbols of R71's value formulas, which are the bytes'
big-endian group. -/
def Obligations.RepackEncCompletes : Prop :=
  ∀ (b0 b1 b2 : Byte) (s : State),
    let s0 : Sextet := (b0 >>> 2).setWidth 6
    let s1 : Sextet := (((b0 &&& 0x3#8) <<< 4) ||| (b1 >>> 4)).setWidth 6
    let s2 : Sextet := (((b1 &&& 0xF#8) <<< 2) ||| (b2 >>> 6)).setWidth 6
    let s3 : Sextet := (b2 &&& 0x3F#8).setWidth 6
    exec (.repackEnc b0 b1 b2) s =
      .next { s with dout := s3 ++ s2 ++ s1 ++ s0, fault := false, fcode := 0b00#2 } ∧
    (b0 ++ b1 ++ b2 : BitVec 24) = (s0 ++ s1 ++ s2 ++ s3 : BitVec 24)

/-- Rules R70, R72: a REPACK.ENC transaction never faults, and wires `din` to `dout` as R70 says, in its own `dout`
positions. -/
def Obligations.RepackEncTransaction : Prop :=
  ∀ s : State, s.task = .hold → s.op = 0b11#2 →
    ∃ d, step s = .next { s with dout := d, fault := false, fcode := 0b00#2 } ∧
      d.extractLsb' 0 6 = s.din.extractLsb' 2 6 ∧ d.extractLsb' 6 4 = s.din.extractLsb' 12 4 ∧
      d.extractLsb' 10 2 = s.din.extractLsb' 0 2 ∧ d.extractLsb' 12 2 = s.din.extractLsb' 22 2 ∧
      d.extractLsb' 14 4 = s.din.extractLsb' 8 4 ∧ d.extractLsb' 18 6 = s.din.extractLsb' 16 6

/-- Rule R64: REPACK.DEC permutes the 24 bits of its input, and REPACK.ENC is its inverse on both sides. -/
def Obligations.RepackersAreInverse : Prop :=
  (∃ σ : Equiv.Perm (Fin 24), ∀ (x : Lanes) (k : Fin 24),
    ∃ d, transact 0b10#2 x = .ok d ∧ d.getLsbD (σ k) = x.getLsbD k) ∧
  (∀ x : Lanes, ∃ d, transact 0b10#2 x = .ok d ∧ transact 0b11#2 d = .ok x) ∧
  (∀ x : Lanes, ∃ d, transact 0b11#2 x = .ok d ∧ transact 0b10#2 d = .ok x)

/-- Rule R54: a LOOKUP.ENC whose operand is a symbol that REPACK.ENC produced never faults. -/
def Obligations.RepackedSymbolsNeverFault : Prop :=
  ∀ (b0 b1 b2 : Byte) (k : Nat), k < 4 →
    ∃ d a, issue (encode (.repackEnc b0 b1 b2)) = .ok d ∧
      issue (encode (.lookupEnc ((lane6 d k).setWidth 8))) = .ok a

/-- Rule R74: with the missing bytes presented as 0, the bits that the kept symbols take from them are 0. -/
def Obligations.ZeroFillGivesZeroBits : Prop :=
  (∀ b0 : Byte, ∃ d, issue (encode (.repackEnc b0 0#8 0#8)) = .ok d ∧ (lane6 d 1).extractLsb' 0 4 = 0#4) ∧
  (∀ b0 b1 : Byte, ∃ d, issue (encode (.repackEnc b0 b1 0#8)) = .ok d ∧ (lane6 d 2).extractLsb' 0 2 = 0#2)

/-! ### Ports and transactions -/

/-- Rules R10, R13, R14, R15: the frame of LOOKUP.DEC, LOOKUP.ENC, REPACK.DEC and REPACK.ENC. When one completes, only
`dout`, `fault` and `fcode` may change, and they report no fault; the inputs and the host's evaluation, with all its
buffers, are unchanged. -/
def Obligations.TransactionFrame : Prop :=
  ∀ (i : Instr) (s t : State), exec i s = .next t →
    t.op = s.op ∧ t.din = s.din ∧ t.task = s.task ∧ t.fault = false ∧ t.fcode = 0b00#2

/-- Rule R16: the outputs depend on `op` and `din` of the transaction alone. Two states whose inputs agree, whatever
stands on their output ports, give the same outputs or the same fault. -/
def Obligations.OutputsDependOnInputsAlone : Prop :=
  ∀ s s' : State, s.task = .hold → s'.task = .hold → s.op = s'.op → s.din = s'.din →
    (∃ t t', step s = .next t ∧ step s' = .next t' ∧
      t.dout = t'.dout ∧ t.fault = t'.fault ∧ t.fcode = t'.fcode) ∨
    (∃ code, step s = .fault (.block code) ∧ step s' = .fault (.block code))

/-- Rule R25: sampling the outputs again, the inputs held, gives the same values and changes nothing. -/
def Obligations.SamplingAgainChangesNothing : Prop :=
  ∀ s t : State, s.task = .hold → step s = .next t → step t = .next t

/-- Rule R33: the bits `din[23:8]` change nothing in a lookup, and REPACK.DEC and REPACK.ENC use every bit of `din`. -/
def Obligations.LookupsIgnoreHighOperandBits : Prop :=
  (∀ (op : BitVec 2) (din din' : Lanes), op = 0b00#2 ∨ op = 0b01#2 → lane8 din 0 = lane8 din' 0 →
    transact op din = transact op din') ∧
  (∀ (op : BitVec 2) (din din' : Lanes), op = 0b10#2 ∨ op = 0b11#2 → transact op din = transact op din' → din = din')

/-- Rules R14, R15: `fault` is 1 exactly when the operation raised a fault, `fcode` names its cause, and is `0b00`
exactly when `fault` is 0 and `0b11` never; REPACK.DEC and REPACK.ENC leave `fault` 0. -/
def Obligations.FaultPortsNameTheCause : Prop :=
  ∀ (op : BitVec 2) (din : Lanes),
    let o := settledOutputs op din
    (o.fault = true ↔ ∃ code, transact op din = .fault code) ∧
    (transact op din = .fault .alphabet → o.fcode = 0b01#2) ∧
    (transact op din = .fault .tableIndex → o.fcode = 0b10#2) ∧
    (o.fcode = 0b00#2 ↔ o.fault = false) ∧ o.fcode ≠ 0b11#2 ∧
    (op = 0b10#2 ∨ op = 0b11#2 → o.fault = false)

/-- Rules R13, R36: on success the bits of `dout` that a lookup does not use are 0, and LOOKUP.ENC gives one of the 64
codes of the alphabet other than '='. -/
def Obligations.UnusedDoutBitsAreZero : Prop :=
  (∀ (c : Byte) (d : Lanes), instrResult (.lookupDec c) = .ok d → d.extractLsb' 6 18 = 0#18) ∧
  (∀ (i : Byte) (d : Lanes), instrResult (.lookupEnc i) = .ok d →
    d.extractLsb' 8 16 = 0#16 ∧ lane8 d 0 ∈ alphabetText)

/-- Rules R14, R15 and I5: what the host reads off the output ports is the transaction's result, and it refuses
`fcode = 0b11`. -/
def Obligations.HostReadsTheResult : Prop :=
  (∀ (op : BitVec 2) (din : Lanes), (settledOutputs op din).read = some (transact op din)) ∧
  (∀ (d : Lanes) (f : Bool), (Outputs.mk d f 0b11#2).read = none)

/-- Rules R18, R95: a fault leaves nothing behind. After a faulted transaction, with its fault on the ports, the next
command word gives what it gives after reset: the same fault, or a next state with the same outputs. That the machine a
new evaluation finds after a fault is `State.afterFault` is the model's deduction (log 3); no step answers it. That its
output ports still show the fault, with nothing presented, is the model's choice (log 13). -/
def Obligations.ReadyAfterFault : Prop :=
  ∀ (s : State) (code : FaultCode) (w : CmdWord), exec s.instr s = .fault (.block code) →
    s.afterFault.fault = true ∧ s.afterFault.fcode = code.fcode ∧
    ((∃ d t, issue w = .ok d ∧ step ((s.afterFault.present w).turnTo .hold) = .next t ∧
        step ((State.reset.present w).turnTo .hold) = .next t ∧ t.dout = d ∧ t.fault = false) ∨
     (∃ c, step ((s.afterFault.present w).turnTo .hold) = .fault (.block c) ∧
        step ((State.reset.present w).turnTo .hold) = .fault (.block c)))

/-! ### The step -/

/-- A step runs the instruction on the ports: when the host holds the inputs, `step` is `exec` of the instruction they
present (R16), and a word placed by `withFetchWord` is run so. -/
def Obligations.StepRunsTheHeldInstruction : Prop :=
  (∀ s : State, s.task = .hold → step s = exec (decodePorts s.op s.din) s) ∧
  (∀ (s : State) (nbits w : Nat) (i : Instr), decodeTableWord nbits w = some i →
    step (s.withFetchWord nbits w) = exec i (s.withFetchWord nbits w))

/-- A step runs the command word that the host's evaluation presents next (R17, R30, R87): the instruction runs with the
word on the input ports, the host absorbs a data result, and a fault ends what it was doing. -/
def Obligations.StepRunsThePresentedInstruction : Prop :=
  ∀ (s : State) (w : CmdWord), s.task.move = .issue w →
    (∀ t, exec (decode w) (s.present w) = .next t → step s = .next (t.turnTo (s.task.absorb t.dout))) ∧
    (∀ code, exec (decode w) (s.present w) = .fault (.block code) → step s = .fault (s.task.abort code))

/-- Rules R17, R27: a list of transactions gives, in its own order, the result of each transaction by itself. So
transactions may be put in any order. The list is the task script, the model's own form of the host (log 4, DESIGN
CHOICE). That it stops with its first fault is in neither rule: the model deduces from R93 that a fault ends the run
(log 3, DEDUCED), while the block itself would answer on (R18). -/
def Obligations.ScriptGivesEachTransactionsResult : Prop :=
  ∀ (s : State) (ws : List CmdWord) (ds : List Lanes), ws.map issue = ds.map Result.ok →
    (∃ t, Host.Core.run core ws.length (s.turnTo (.script ws [])) = .next t ∧ t.task = .script [] ds) ∧
    (∀ (w : CmdWord) (code : FaultCode) (rest : List CmdWord), issue w = .fault code →
      Host.Core.run core (ws.length + 1) (s.turnTo (.script (ws ++ w :: rest) [])) = .fault (.block code))

/-- The model's state at reset: nothing is presented, and there is no move (log 1, log 4; R100 for the host's
evaluation). -/
def Obligations.ResetPresentsNothing : Prop :=
  State.reset.task = .idle ∧ step State.reset = .refused .noTransaction

/-- The invariant of `StepKeepsSound` holds at reset; the port values at reset are the model's choice (log 1). -/
def Obligations.ResetIsSound : Prop := State.reset.sound = true

/-- Rule R15 and the evaluations of R81 to R85: every step keeps a sound state sound. `fcode` names no fault exactly
when `fault` is 0 and is never `0b11`, and the host's buffers stay in step with its input. That the output ports keep the
last sample through a step without a transaction is the model's choice (log 13). -/
def Obligations.StepKeepsSound : Prop :=
  ∀ s t : State, s.sound = true → step s = .next t → t.sound = true

/-! ### The host -/

/-- Rule R38: DECODE.BLOCK is REPACK.DEC of the four symbols when all four characters are in the alphabet, and else the
fault of the first faulting lookup, which is ALPHABET. -/
def Obligations.DecodeBlockExpansion : Prop :=
  ∀ c0 c1 c2 c3 : Byte,
    (∀ s0 s1 s2 s3 : Sextet, decTable c0 = some s0 → decTable c1 = some s1 → decTable c2 = some s2 →
      decTable c3 = some s3 → decodeBlock c0 c1 c2 c3 = issue (encode (.repackDec s0 s1 s2 s3))) ∧
    ((decTable c0 = none ∨ decTable c1 = none ∨ decTable c2 = none ∨ decTable c3 = none) →
      decodeBlock c0 c1 c2 c3 = .fault .alphabet)

/-- Rule R38: ENCODE.BLOCK never faults, and DECODE.BLOCK of its four characters gives its bytes back. -/
def Obligations.EncodeBlockDecodesBack : Prop :=
  ∀ b0 b1 b2 : Byte, ∃ c0 c1 c2 c3 : Byte, encodeBlock b0 b1 b2 = .ok [c0, c1, c2, c3] ∧
    decodeBlock c0 c1 c2 c3 = .ok (pack8 b0 b1 b2)

/-- Rule R80: a length that is no multiple of 4 ends decode with LENGTH, before any transaction; so does the machine's
own step at the call. -/
def Obligations.DecodeChecksLengthFirst : Prop :=
  ∀ (s : State) (chars : List Byte) (declared : Nat), chars.length % 4 ≠ 0 →
    hostDecode chars declared = .error .length ∧
    step (s.turnTo (.decodeCall chars declared)) = .fault (.host .length)

/-- Rule R83: a declared length above 3n/4 is refused, and the machine's step at the call refuses it. -/
def Obligations.DecodeRefusesLongDeclaredLength : Prop :=
  ∀ (s : State) (chars : List Byte) (declared : Nat), chars.length % 4 = 0 → 3 * (chars.length / 4) < declared →
    hostDecode chars declared = .refused ∧
    step (s.turnTo (.decodeCall chars declared)) = .refused .declaredLength

/-- Rule R84: a character outside the alphabet aborts decode, whatever the declared length drops, and the error names
the first such character in index order. -/
def Obligations.DecodeReportsFirstInvalidCharacter : Prop :=
  ∀ (before after : List Byte) (c : Byte) (declared : Nat),
    (before ++ c :: after).length % 4 = 0 → declared ≤ 3 * ((before ++ c :: after).length / 4) →
    (∀ x ∈ before, inAlphabet x = true) → inAlphabet c = false →
    hostDecode (before ++ c :: after) declared = .error (.alphabet before.length)

/-- Rules R82, R89: any text over the alphabet decodes, wherever '=' stands in it, and the result has exactly the
declared length. -/
def Obligations.DecodeAcceptsAnyPadding : Prop :=
  ∀ (chars : List Byte) (declared : Nat), chars.length % 4 = 0 → declared ≤ 3 * (chars.length / 4) →
    (∀ c ∈ chars, inAlphabet c = true) →
    ∃ out, hostDecode chars declared = .output out ∧ out.length = declared

/-- Rule R82: the result has exactly the declared length, and decode with a shorter declared length is the first bytes of
decode with a longer one, so only the declared length decides what is kept. -/
def Obligations.DecodeTruncates : Prop :=
  ∀ (chars out : List Byte) (long short : Nat), short ≤ long → hostDecode chars long = .output out →
    out.length = long ∧ hostDecode chars short = .output (out.take short)

/-- Rules R44, R89: '=' reads as 'A' wherever it stands, so decode cannot tell them apart. -/
def Obligations.DecodeCannotTellPadFromA : Prop :=
  ∀ (chars : List Byte) (declared : Nat),
    hostDecode (chars.map fun c => if c = padChar then 65#8 else c) declared = hostDecode chars declared

/-- Rule R86: encode always succeeds; its text is one character of the alphabet a kept symbol, then the '=' characters,
4·ceil(n/3) in all. -/
def Obligations.EncodeSucceedsAndPads : Prop :=
  ∀ bytes : List Byte, ∃ text,
    hostEncode bytes = .output (text ++ List.replicate (padCount bytes.length) padChar) ∧
    text.length = symbolCount bytes.length ∧ (∀ c ∈ text, c ∈ alphabetText) ∧
    (bytes.length % 3 = 1 → padCount bytes.length = 2) ∧ (bytes.length % 3 = 2 → padCount bytes.length = 1) ∧
    (bytes.length % 3 = 0 → padCount bytes.length = 0) ∧
    text.length + padCount bytes.length = 4 * ((bytes.length + 2) / 3)

/-- Rule R73: the source's whole-stream repacker gives the same symbols as REPACK.ENC block by block with zero-fill,
truncated to `m`, which is `4q`, `4q - 2` or `4q - 1` for `q = ceil(n/3)` blocks. -/
def Obligations.BlockRepackingEqualsStreamRepacking : Prop :=
  ∀ bytes : List Byte, ∃ syms,
    encodeBlocks bytes = .ok syms ∧ syms.length = 4 * ((bytes.length + 2) / 3) ∧
    streamSymbols bytes = syms.take (symbolCount bytes.length) ∧
    (bytes.length % 3 = 0 → symbolCount bytes.length = 4 * ((bytes.length + 2) / 3)) ∧
    (bytes.length % 3 = 1 → symbolCount bytes.length = 4 * ((bytes.length + 2) / 3) - 2) ∧
    (bytes.length % 3 = 2 → symbolCount bytes.length = 4 * ((bytes.length + 2) / 3) - 1)

/-- Rule R88, round trip: decode of encode of any bytes, with their own length declared, gives the bytes back. -/
def Obligations.DecodeUndoesEncode : Prop :=
  ∀ bytes : List Byte, ∃ text, hostEncode bytes = .output text ∧ hostDecode text bytes.length = .output bytes

/-- Rule R88, reference agreement: on canonical base64 text decode is the standard base64 decoding. What canonical and
standard mean is the model's, from general knowledge (log 7; G2). -/
def Obligations.DecodeAgreesWithStandardDecoding : Prop :=
  ∀ (body : List Byte) (pad : Nat), canonical body pad = true →
    hostDecode (body ++ List.replicate pad padChar) (6 * body.length / 8) = .output (standardDecode body)

/-- Rules R80 to R84: the machine, one transaction a step, computes decode. A decode that ends with an output has returned
it after the call, five transactions a block, and the return; one that ends with an error or is refused has by then
stopped so. The number of steps, `5(n/4) + 2`, is the model's choice: the host's moves between transactions are steps of
their own (log 9, DESIGN CHOICE). -/
def Obligations.MachineComputesDecode : Prop :=
  ∀ (s : State) (chars : List Byte) (declared : Nat),
    let run := Host.Core.run core (5 * (chars.length / 4) + 2) (s.turnTo (.decodeCall chars declared))
    (∀ out, hostDecode chars declared = .output out → ∃ t, run = .next t ∧ t.task = .returned out) ∧
    (∀ e, hostDecode chars declared = .error e → run = .fault (.host e)) ∧
    (hostDecode chars declared = .refused → run = .refused .declaredLength)

/-- Rules R85, R86: the machine, one transaction a step, computes encode: after the call, one REPACK.ENC a block, one
LOOKUP.ENC a kept symbol, and the moves between, it has returned encode's text. The number of steps,
`ceil(n/3) + ceil(8n/6) + 3`, is the model's choice: the host's moves between transactions are steps of their own (log 9,
DESIGN CHOICE). -/
def Obligations.MachineComputesEncode : Prop :=
  ∀ (s : State) (bytes : List Byte), ∃ text t, hostEncode bytes = .output text ∧
    Host.Core.run core ((bytes.length + 2) / 3 + symbolCount bytes.length + 3) (s.turnTo (.encodeCall bytes)) = .next t ∧
    t.task = .returned text

/-- Rule R86: an encode evaluation never stops, whatever its buffers hold: no TABLE_INDEX fault can occur. -/
def Obligations.EncodeEvaluationNeverFaults : Prop :=
  ∀ s : State, ((∃ bytes, s.task = .encodeCall bytes) ∨ (∃ r, s.task = .repackRun r) ∨ (∃ r, s.task = .lookupRun r)) →
    ∃ t, step s = .next t

/-- Rule R102: in decode, REPACK.DEC is presented only on the four symbols that the block's lookups returned. From the
start of a block's four characters, four steps look them up and the fifth presents REPACK.DEC of exactly their symbols. -/
def Obligations.RepackWaitsForItsLookups : Prop :=
  ∀ (s : State) (r : DecodeRun) (c0 c1 c2 c3 : Byte) (rest : List Byte) (s0 s1 s2 s3 : Sextet),
    s.task = .decodeRun r → r.syms = [] → r.todo = c0 :: c1 :: c2 :: c3 :: rest →
    decTable c0 = some s0 → decTable c1 = some s1 → decTable c2 = some s2 → decTable c3 = some s3 →
    ∃ t, Host.Core.run core 4 s = .next t ∧ t.task.move = .issue (encode (.repackDec s0 s1 s2 s3)) ∧
      t.task = .decodeRun { r with index := r.index + 4, todo := rest, syms := [s0, s1, s2, s3] }

/-- Rule R88: host plus block has all six properties, over all inputs. Determinism is of the machine's runs, in the
model's own steps and tasks (logs 4 and 9, DESIGN CHOICE); in reference agreement, what canonical text and standard
decoding are is the model's, from general knowledge (log 7, PRESUMED; G2). -/
def Obligations.HostMeetsEndToEndProperties : Prop := EndToEnd hostDecode hostEncode
end

