-- ==== Sys2Proof/Laws/Operands.lean ====
section
/-! SUPPORT. Lanes of packed ports, and bits of `fromBitsLSB`. -/

namespace Sys2Proof.Machine

/-- Bit `i` of a bit list's value is its element `i`. -/
theorem testBit_bitsValue (bits : List Bool) (i : Nat) :
    (bitsValue bits).testBit i = bits.getD i false := by
  induction bits generalizing i with
  | nil => simp [bitsValue]
  | cons b bs ih =>
    cases i with
    | zero => cases b <;> simp [bitsValue]
    | succ i =>
      rw [Nat.testBit_succ, List.getD_cons_succ, ← ih]
      congr 1
      cases b
      · simp [bitsValue]
      · simp only [bitsValue, Bool.toNat_true]
        omega

/-- Bit `i` of `fromBitsLSB` is element `i` of the list (R6). -/
theorem getLsbD_fromBitsLSB (w : Nat) (bits : List Bool) (i : Nat) :
    (fromBitsLSB w bits).getLsbD i = (decide (i < w) && bits.getD i false) := by
  simp [fromBitsLSB, BitVec.getLsbD_ofNat, testBit_bitsValue]

/-- Bit `j` of 6-bit lane `k` is bit `6k+j` of the port (R21). -/
theorem getLsbD_lane6 (d : Lanes) (k j : Nat) :
    (lane6 d k).getLsbD j = (decide (j < 6) && d.getLsbD (6 * k + j)) := by
  simp [lane6]

/-- Bit `j` of 8-bit lane `k` is bit `8k+j` of the port (R21). -/
theorem getLsbD_lane8 (d : Lanes) (k j : Nat) :
    (lane8 d k).getLsbD j = (decide (j < 8) && d.getLsbD (8 * k + j)) := by
  simp [lane8]

/-- `getLsbD_lane6` for a bit in range. -/
theorem getElem_lane6 (d : Lanes) (k j : Nat) (h : j < 6) : (lane6 d k)[j] = d.getLsbD (6 * k + j) := by
  simp [lane6]

/-- `getLsbD_lane8` for a bit in range. -/
theorem getElem_lane8 (d : Lanes) (k j : Nat) (h : j < 8) : (lane8 d k)[j] = d.getLsbD (8 * k + j) := by
  simp [lane8]

/-- Bit `i` of four packed symbols (R21). -/
theorem getLsbD_pack6 (s0 s1 s2 s3 : Sextet) (i : Nat) :
    (pack6 s0 s1 s2 s3).getLsbD i =
      if i < 6 then s0.getLsbD i else if i < 12 then s1.getLsbD (i - 6)
      else if i < 18 then s2.getLsbD (i - 12) else s3.getLsbD (i - 18) := by
  simp only [pack6, BitVec.getLsbD_append, Nat.sub_sub]
  repeat' split
  all_goals first | rfl | omega

/-- Bit `i` of three packed bytes (R21). -/
theorem getLsbD_pack8 (b0 b1 b2 : Byte) (i : Nat) :
    (pack8 b0 b1 b2).getLsbD i =
      if i < 8 then b0.getLsbD i else if i < 16 then b1.getLsbD (i - 8) else b2.getLsbD (i - 16) := by
  simp only [pack8, BitVec.getLsbD_append, Nat.sub_sub]
  repeat' split
  all_goals first | rfl | omega

/-- The lanes of four packed symbols are those symbols. -/
theorem lane6_pack6 (s0 s1 s2 s3 : Sextet) :
    lane6 (pack6 s0 s1 s2 s3) 0 = s0 ∧ lane6 (pack6 s0 s1 s2 s3) 1 = s1 ∧
    lane6 (pack6 s0 s1 s2 s3) 2 = s2 ∧ lane6 (pack6 s0 s1 s2 s3) 3 = s3 := by
  refine ⟨?_, ?_, ?_, ?_⟩ <;>
  · apply BitVec.eq_of_getLsbD_eq
    intro i hi
    interval_cases i <;> simp only [getLsbD_lane6, getLsbD_pack6] <;> simp

/-- The lanes of three packed bytes are those bytes. -/
theorem lane8_pack8 (b0 b1 b2 : Byte) :
    lane8 (pack8 b0 b1 b2) 0 = b0 ∧ lane8 (pack8 b0 b1 b2) 1 = b1 ∧ lane8 (pack8 b0 b1 b2) 2 = b2 := by
  refine ⟨?_, ?_, ?_⟩ <;>
  · apply BitVec.eq_of_getLsbD_eq
    intro i hi
    interval_cases i <;> simp only [getLsbD_lane8, getLsbD_pack8] <;> simp

end Sys2Proof.Machine
end

