-- ==== Sys2Proof/Laws/State.lean ====
section
/-! SUPPORT. Each field after each update of State. -/

namespace Sys2Proof.Machine

@[simp] theorem State.drive_op (s : State) (d : Lanes) : (s.drive d).op = s.op := rfl
@[simp] theorem State.drive_din (s : State) (d : Lanes) : (s.drive d).din = s.din := rfl
@[simp] theorem State.drive_dout (s : State) (d : Lanes) : (s.drive d).dout = d := rfl
@[simp] theorem State.drive_fault (s : State) (d : Lanes) : (s.drive d).fault = false := rfl
@[simp] theorem State.drive_fcode (s : State) (d : Lanes) : (s.drive d).fcode = 0b00#2 := rfl
@[simp] theorem State.drive_task (s : State) (d : Lanes) : (s.drive d).task = s.task := rfl

@[simp] theorem State.present_op (s : State) (w : CmdWord) : (s.present w).op = cmdOp w := rfl
@[simp] theorem State.present_din (s : State) (w : CmdWord) : (s.present w).din = cmdDin w := rfl
@[simp] theorem State.present_dout (s : State) (w : CmdWord) : (s.present w).dout = s.dout := rfl
@[simp] theorem State.present_fault (s : State) (w : CmdWord) : (s.present w).fault = s.fault := rfl
@[simp] theorem State.present_fcode (s : State) (w : CmdWord) : (s.present w).fcode = s.fcode := rfl
@[simp] theorem State.present_task (s : State) (w : CmdWord) : (s.present w).task = s.task := rfl
@[simp] theorem State.present_instr (s : State) (w : CmdWord) : (s.present w).instr = decode w := rfl

@[simp] theorem State.turnTo_op (s : State) (t : Task) : (s.turnTo t).op = s.op := rfl
@[simp] theorem State.turnTo_din (s : State) (t : Task) : (s.turnTo t).din = s.din := rfl
@[simp] theorem State.turnTo_dout (s : State) (t : Task) : (s.turnTo t).dout = s.dout := rfl
@[simp] theorem State.turnTo_fault (s : State) (t : Task) : (s.turnTo t).fault = s.fault := rfl
@[simp] theorem State.turnTo_fcode (s : State) (t : Task) : (s.turnTo t).fcode = s.fcode := rfl
@[simp] theorem State.turnTo_task (s : State) (t : Task) : (s.turnTo t).task = t := rfl
@[simp] theorem State.turnTo_instr (s : State) (t : Task) : (s.turnTo t).instr = s.instr := rfl

end Sys2Proof.Machine
end

