-- ==== Sys2Proof/Laws/Ops.lean ====
section
/-! SUPPORT. What each shared operation can answer, said once. -/

namespace Sys2Proof.Machine

@[simp] theorem complete_ok (s : State) (d : Lanes) : complete s (.ok d) = .next (s.drive d) := rfl

@[simp] theorem complete_fault (s : State) (code : FaultCode) :
    complete s (.fault code) = .fault (.block code) := rfl

/-- A transaction that answers a next state had a data result, and drives it. -/
theorem complete_eq_next {s t : State} {r : Result} (h : complete s r = .next t) :
    ∃ d, r = .ok d ∧ t = s.drive d := by
  cases r with
  | ok d => exact ⟨d, rfl, by simpa using h.symm⟩
  | fault code => simp at h

/-- A transaction that answers a fault had that fault as its result. -/
theorem complete_eq_fault {s : State} {r : Result} {f : Fault} (h : complete s r = .fault f) :
    ∃ code, r = .fault code ∧ f = .block code := by
  cases r with
  | ok d => simp at h
  | fault code => exact ⟨code, rfl, by simpa using h.symm⟩

/-- A transaction is never refused (R34, R87). -/
theorem complete_ne_refused (s : State) (r : Result) (q : Refusal) : complete s r ≠ .refused q := by
  cases r <;> simp

/-- The codes of the two causes differ, and neither is 0b00 or 0b11 (R15, R90). -/
theorem FaultCode.fcode_cases (code : FaultCode) :
    code = .alphabet ∧ code.fcode = 0b01#2 ∨ code = .tableIndex ∧ code.fcode = 0b10#2 := by
  cases code
  · exact .inl ⟨rfl, rfl⟩
  · exact .inr ⟨rfl, rfl⟩

end Sys2Proof.Machine
end

