-- ==== Sys2Proof/Laws/PerInstr.lean ====
section
/-! SUPPORT. Statements made per instruction, one lemma per constructor of Instr. -/

namespace Sys2Proof.Laws

/-- The command word of an operation and any `din` has the bits its row of the opcode table fixes (R31). -/
theorem row_matches_append (op : Op) (din : Lanes) : op.row.matches (op.bits ++ din) = true := by
  have h : (op.bits ++ din : CmdWord) &&& op.row.mask = op.row.value := by
    apply BitVec.eq_of_getLsbD_eq
    intro k hk
    simp only [BitVec.getLsbD_and, BitVec.getLsbD_append]
    cases op <;> simp only [Op.bits, Op.row] <;> interval_cases k <;> simp
  simpa [Row.matches] using h

/-- The encoding of `i` is a word of its own row of the opcode table (R31). -/
def TableRow.Statement (i : Instr) : Prop :=
  i.op.row.matches (encode i) = true

theorem TableRow.lookupDec (c : Byte) : TableRow.Statement (.lookupDec c) :=
  row_matches_append .lookupDec _

theorem TableRow.lookupEnc (i : Byte) : TableRow.Statement (.lookupEnc i) :=
  row_matches_append .lookupEnc _

theorem TableRow.repackDec (g0 g1 g2 g3 : Sextet) : TableRow.Statement (.repackDec g0 g1 g2 g3) :=
  row_matches_append .repackDec _

theorem TableRow.repackEnc (b0 b1 b2 : Byte) : TableRow.Statement (.repackEnc b0 b1 b2) :=
  row_matches_append .repackEnc _

end Sys2Proof.Laws
end

