-- ==== Sys2Proof/Laws/Repack.lean ====
section
/-! SUPPORT. The windows of REPACK.ENC's stream, written out as bit lists. -/

namespace Sys2Proof.Machine

/-- The four windows of a block's stream are the LSB-first bit lists that R70 gives. -/
theorem repackSymbol_eq_bits (b0 b1 b2 : Byte) :
    repackSymbol b0 b1 b2 0 = fromBitsLSB 6 [b0[2], b0[3], b0[4], b0[5], b0[6], b0[7]] ∧
    repackSymbol b0 b1 b2 1 = fromBitsLSB 6 [b1[4], b1[5], b1[6], b1[7], b0[0], b0[1]] ∧
    repackSymbol b0 b1 b2 2 = fromBitsLSB 6 [b2[6], b2[7], b1[0], b1[1], b1[2], b1[3]] ∧
    repackSymbol b0 b1 b2 3 = fromBitsLSB 6 [b2[0], b2[1], b2[2], b2[3], b2[4], b2[5]] :=
  ⟨rfl, rfl, rfl, rfl⟩

end Sys2Proof.Machine
end

