-- ==== Sys2Proof/Laws/Step.lean ====
section
/-! SUPPORT. What a meaning, the host's answer and a step can do, said once. -/

namespace Sys2Proof.Machine

/-- Every instruction completes with its result (R7, R16). -/
theorem exec_eq_complete (i : Instr) (s : State) : exec i s = complete s (instrResult i) := by
  cases i <;> rfl

/-- An instruction that answers a next state had a data result, and changes only the output ports. -/
theorem exec_eq_next {i : Instr} {s t : State} (h : exec i s = .next t) :
    ∃ d, instrResult i = .ok d ∧ t = s.drive d :=
  complete_eq_next (exec_eq_complete i s ▸ h)

/-- An instruction that answers a fault had that fault as its result. -/
theorem exec_eq_fault {i : Instr} {s : State} {f : Fault} (h : exec i s = .fault f) :
    ∃ code, instrResult i = .fault code ∧ f = .block code :=
  complete_eq_fault (exec_eq_complete i s ▸ h)

/-- A transaction step ends with the instruction's result: the host absorbs data, and a fault aborts its task. -/
theorem transactionStep_eq (s : State) :
    transactionStep s = match instrResult s.instr with
      | .ok d => .next ((s.drive d).turnTo (s.task.absorb d))
      | .fault code => .fault (s.task.abort code) := by
  unfold transactionStep
  rw [exec_eq_complete]
  cases instrResult s.instr <;> rfl

/-- A transaction step that answers a next state drives the result and lets the host absorb it. -/
theorem transactionStep_eq_next {s t : State} (h : transactionStep s = .next t) :
    ∃ d, instrResult s.instr = .ok d ∧ t = (s.drive d).turnTo (s.task.absorb d) := by
  rw [transactionStep_eq] at h
  cases hr : instrResult s.instr with
  | ok d => exact ⟨d, rfl, by simpa [hr] using h.symm⟩
  | fault code => simp [hr] at h

/-- Everything a step that answers a next state can have done. -/
theorem step_eq_next {s t : State} (h : step s = .next t) :
    (s.task.move = .sample ∧ ∃ d, instrResult s.instr = .ok d ∧ t = (s.drive d).turnTo (s.task.absorb d)) ∨
    (∃ w, s.task.move = .issue w ∧ ∃ d, issue w = .ok d ∧
      t = ((s.present w).drive d).turnTo (s.task.absorb d)) ∨
    (∃ task, s.task.move = .turn task ∧ t = s.turnTo task) := by
  unfold step at h
  split at h
  next hm => exact .inl ⟨hm, transactionStep_eq_next h⟩
  next w hm => exact .inr (.inl ⟨w, hm, transactionStep_eq_next h⟩)
  next task hm => exact .inr (.inr ⟨task, hm, by simpa using h.symm⟩)
  all_goals simp at h

end Sys2Proof.Machine
end

