-- ==== Sys2Proof/Laws/Run.lean ====
section
/-! SUPPORT. Runs of the machine, step by step. -/

namespace Sys2Proof.Machine

theorem run_zero (s : State) : Host.Core.run core 0 s = .next s := rfl

/-- A run goes on from the next state. -/
theorem run_succ_of_next {s t : State} (h : step s = .next t) (k : Nat) :
    Host.Core.run core (k + 1) s = Host.Core.run core k t := by
  have h' : core.step s = .next t := h
  simp only [Host.Core.run, h']

/-- A run stops at the first fault (R93). -/
theorem run_succ_of_fault {s : State} {f : Fault} (h : step s = .fault f) (k : Nat) :
    Host.Core.run core (k + 1) s = .fault f := by
  have h' : core.step s = .fault f := h
  simp only [Host.Core.run, h']

/-- A run stops at the first refusal. -/
theorem run_succ_of_refused {s : State} {q : Refusal} (h : step s = .refused q) (k : Nat) :
    Host.Core.run core (k + 1) s = .refused q := by
  have h' : core.step s = .refused q := h
  simp only [Host.Core.run, h']

/-- A step that presents a word with a data result drives it, and the host absorbs it. -/
theorem step_of_issue_ok {s : State} {w : CmdWord} {d : Lanes} (hm : s.task.move = .issue w)
    (hr : instrResult (decode w) = .ok d) :
    step s = .next (((s.present w).drive d).turnTo (s.task.absorb d)) := by
  simp [step, hm, transactionStep_eq, hr]

/-- A step that presents a faulting word ends what the host was doing (R84, R86, R93). -/
theorem step_of_issue_fault {s : State} {w : CmdWord} {code : FaultCode} (hm : s.task.move = .issue w)
    (hr : instrResult (decode w) = .fault code) : step s = .fault (s.task.abort code) := by
  simp [step, hm, transactionStep_eq, hr]

/-- A move of the host between transactions changes its task alone. -/
theorem step_of_turn {s : State} {t : Task} (hm : s.task.move = .turn t) : step s = .next (s.turnTo t) := by
  simp [step, hm]

end Sys2Proof.Machine
end

