-- ==== Sys2Proof/Tests/Slice0.lean ====
section
/-! SUPPORT. Tests with expected values from spec/95_test_vectors.md and the worked examples of 41 to 44, and a witness
for the hypotheses of each statement. -/

namespace Sys2Proof.Tests

open Sys2Proof.Machine

/-! ### WellFormed: an ill-formed line for each check (R37) -/

theorem test_wellFormed_accepts : (Line.mk .repackDec [63, 63, 63, 63]).wellFormed = true := by decide
theorem test_wellFormed_refuses_lookupDec_256 : (Line.mk .lookupDec [256]).wellFormed = false := by decide
theorem test_wellFormed_refuses_lookupEnc_256 : (Line.mk .lookupEnc [256]).wellFormed = false := by decide
/-- R37's own example. -/
theorem test_wellFormed_refuses_repackDec_64 : (Line.mk .repackDec [64, 0, 0, 0]).wellFormed = false := by decide
theorem test_wellFormed_refuses_repackDec_last_64 : (Line.mk .repackDec [0, 0, 0, 64]).wellFormed = false := by decide
theorem test_wellFormed_refuses_repackEnc_256 : (Line.mk .repackEnc [0, 256, 0]).wellFormed = false := by decide
theorem test_wellFormed_refuses_missing_operand : (Line.mk .repackEnc [0, 0]).wellFormed = false := by decide
theorem test_wellFormed_refuses_extra_operand : (Line.mk .lookupDec [0, 0]).wellFormed = false := by decide

/-! ### Decode: words written out from R32's bit-position table -/

/-- op = 00, ignored bits, c = 'T'. -/
theorem test_decode_lookupDec : decode 0b00_0000000000000000_01010100#26 = .lookupDec 84#8 := by decide
/-- Every ignored bit set (R33). -/
theorem test_decode_lookupDec_ignored : decode 0b00_1111111111111111_01010100#26 = .lookupDec 84#8 := by decide
theorem test_decode_lookupEnc : decode 0b01_0000000000000000_00101110#26 = .lookupEnc 46#8 := by decide
/-- g3 = 46, g2 = 5, g1 = 22, g0 = 19. -/
theorem test_decode_repackDec :
    decode 0b10_101110_000101_010110_010011#26 = .repackDec 19#6 22#6 5#6 46#6 := by decide
/-- b2 = 0x6E, b1 = 0x61, b0 = 0x4D. -/
theorem test_decode_repackEnc :
    decode 0b11_01101110_01100001_01001101#26 = .repackEnc 0x4D#8 0x61#8 0x6E#8 := by decide
theorem test_encode_repackDec : encode (.repackDec 19#6 22#6 5#6 46#6) = 0x2B85593#26 := by decide
theorem test_encode_repackEnc : encode (.repackEnc 0x4D#8 0x61#8 0x6E#8) = 0x36E614D#26 := by decide
theorem test_decodeTableWord_refuses_27_bits : decodeTableWord 32 (2 ^ 26) = none := by decide

/-! ### Assembler text (R37) -/

theorem test_assemble_quoted : assemble "LOOKUP.DEC 'T'".toList = some 0x0000054#26 := by decide
theorem test_assemble_hex : assemble "REPACK.ENC 0x4D, 0x61, 0x6E".toList = some 0x36E614D#26 := by decide
theorem test_assemble_refuses_64 : assemble "REPACK.DEC 64, 0, 0, 0".toList = none := by decide
theorem test_disassemble : disassemble 0x2B85593#26 = "REPACK.DEC 19, 22, 5, 46".toList := by decide

/-! ### One step each -/

/-- The data result of a step. -/
def doutOf : Outcome → Option Lanes
  | .next s => some s.dout
  | _ => none

/-- The fault of a step. -/
def faultOf : Outcome → Option Fault
  | .fault f => some f
  | _ => none

/-- The refusal of a step. -/
def refusalOf : Outcome → Option Refusal
  | .refused q => some q
  | _ => none

/-- The task after a step. -/
def taskOf : Outcome → Option Task
  | .next s => some s.task
  | _ => none

/-- The machine with a command word on its ports. -/
def holding (w : CmdWord) : State := (State.reset.present w).turnTo .hold

/-- 95 §2.1: '=' gives 0, as 'A' does. -/
theorem test_lookupDec_pad : doutOf (step (holding 0x000003D#26)) = some 0#24 := by decide
/-- 95 §2.1: ':' is one above '9'. -/
theorem test_lookupDec_faults : faultOf (step (holding 0x000003A#26)) = some (.block .alphabet) := by decide
/-- 95 §2.2: ignored bits. -/
theorem test_lookupEnc_ignored : doutOf (step (holding 0x1ABCD3F#26)) = some 47#24 := by decide
theorem test_lookupEnc_faults : faultOf (step (holding 0x1000040#26)) = some (.block .tableIndex) := by decide
/-- 95 §2.3, "TWFu". -/
theorem test_repackDec_TWFu : doutOf (step (holding 0x2B85593#26)) = some 0x6E614D#24 := by decide
/-- 95 §2.3, all 24 single-bit vectors: input bit to output bit (R65). -/
theorem test_repackDec_single_bits :
    (List.range 24).map (fun k => issue (BitVec.ofNat 26 (0x2000000 + 2 ^ k))) =
      [2, 3, 4, 5, 6, 7, 12, 13, 14, 15, 0, 1, 22, 23, 8, 9, 10, 11, 16, 17, 18, 19, 20, 21].map
        (fun k => Result.ok (BitVec.ofNat 24 (2 ^ k))) := by decide
/-- 95 §2.4, "Man". -/
theorem test_repackEnc_Man : doutOf (step (holding 0x36E614D#26)) = some 0xB85593#24 := by decide
/-- 95 §2.4, all 24 single-bit vectors. -/
theorem test_repackEnc_single_bits :
    (List.range 24).map (fun k => issue (BitVec.ofNat 26 (0x3000000 + 2 ^ k))) =
      [10, 11, 0, 1, 2, 3, 4, 5, 14, 15, 16, 17, 6, 7, 8, 9, 18, 19, 20, 21, 22, 23, 12, 13].map
        (fun k => Result.ok (BitVec.ofNat 24 (2 ^ k))) := by decide

theorem test_withFetchWord_runs :
    doutOf (step (State.reset.withFetchWord 32 0x100002E)) = some 117#24 := by decide

/-! ### The host -/

/-- A text as its ASCII codes. -/
def codes (text : String) : List Byte := text.toList.map fun c => BitVec.ofNat 8 c.toNat

/-- 95 §1, W1 and P3. -/
theorem test_decode_bad_character : hostDecode (codes "ad$=") 2 = .error (.alphabet 2) := by decide
/-- 95 §1, W2 and P5. -/
theorem test_decode_bad_length : hostDecode (codes "ad/") 2 = .error .length := by decide
/-- 95 §2.6: a fault beyond the kept bytes (P6). -/
theorem test_decode_fault_in_dropped_block : hostDecode (codes "TQ==AB$A") 1 = .error (.alphabet 6) := by decide
/-- 95 §2.6: malformed padding (R89). -/
theorem test_decode_malformed_padding : hostDecode (codes "=AAA") 2 = .output [0#8, 0#8] := by decide
theorem test_decode_refuses_long : hostDecode (codes "TWFu") 4 = .refused := by decide
/-- 95 §1.1, the first and the last block of W3. -/
theorem test_decode_known_vector :
    hostDecode (codes "7xQM+vU=") 5 = .output [0xef#8, 0x14#8, 0x0c#8, 0xfa#8, 0xf5#8] := by decide
/-- 95 §1, W4 to W6 and W8. -/
theorem test_encode_pads :
    hostEncode [0xFF#8] = .output (codes "/w==") ∧ hostEncode [0x4D#8, 0x61#8] = .output (codes "TWE=") ∧
    hostEncode [0x4D#8, 0x61#8, 0x6E#8] = .output (codes "TWFu") ∧
    hostEncode [0x4D#8, 0x61#8, 0x6E#8, 0x79#8] = .output (codes "TWFueQ==") := by decide
theorem test_encode_empty : hostEncode [] = .output [] := by decide

/-! ### Witnesses: a state and operands that meet each statement's hypotheses -/

/-- AssemblerRefusesExactlyOutOfRangeLines, both clauses. -/
theorem witness_lines : (Line.mk .repackDec [63, 0, 0, 63]).wellFormed = true ∧
    (Line.mk .repackDec [63, 0, 0, 64]).wellFormed = false := by decide

/-- LookupDecCompletes: the ends of every class. -/
theorem witness_decTable :
    [65#8, 90#8, 97#8, 122#8, 48#8, 57#8, 43#8, 47#8, 61#8].map decTable =
      [some 0#6, some 25#6, some 26#6, some 51#6, some 52#6, some 61#6, some 62#6, some 63#6, some 0#6] := by decide

/-- LookupDecTransaction, LookupEncTransaction, RepackDecTransaction, RepackEncTransaction: a held word of each, both
clauses of the lookups at a bound. -/
theorem witness_transactions :
    [0x000007A#26, 0x000007B#26, 0x100003F#26, 0x1000040#26, 0x2800001#26, 0x3800001#26].all
      (fun w => (holding w).task == .hold) = true ∧
    (holding 0x000007A#26).op = 0b00#2 ∧ decTable (lane8 (holding 0x000007A#26).din 0) = some 51#6 ∧
    (holding 0x000007B#26).op = 0b00#2 ∧ decTable (lane8 (holding 0x000007B#26).din 0) = none ∧
    (holding 0x100003F#26).op = 0b01#2 ∧ (lane8 (holding 0x100003F#26).din 0).toNat ≤ 63 ∧
    (holding 0x1000040#26).op = 0b01#2 ∧ 63 < (lane8 (holding 0x1000040#26).din 0).toNat ∧
    (holding 0x2800001#26).op = 0b10#2 ∧ (holding 0x3800001#26).op = 0b11#2 := by decide

/-- LookupDecFaultsExactlyOutsideAlphabet: the codes next to every class. -/
theorem witness_decCount :
    [0#8, 42#8, 44#8, 46#8, 58#8, 60#8, 62#8, 64#8, 91#8, 96#8, 123#8, 255#8].all (fun c => decCount c != 1) = true := by
  decide

/-- LookupEncCompletes: the ends of every class. -/
theorem witness_encTable :
    [0#8, 25#8, 26#8, 51#8, 52#8, 61#8, 62#8, 63#8].map encTable =
      [some 65#8, some 90#8, some 97#8, some 122#8, some 48#8, some 57#8, some 43#8, some 47#8] := by decide

/-- LookupEncFaultsExactlyAbove63, each clause at its bound. -/
theorem witness_encCount : (63#8).toNat ≤ 63 ∧ 64 ≤ (64#8).toNat ∧ encCount 64#8 ≠ 1 ∧ encCount 255#8 ≠ 1 := by decide

/-- LookupsAreInverse, both clauses. -/
theorem witness_inverse : (63#8).toNat ≤ 63 ∧ inAlphabet 47#8 = true ∧ 47#8 ≠ padChar := by decide

/-- RepackedSymbolsNeverFault. -/
theorem witness_lane : (3 : Nat) < 4 := by decide

/-- TransactionFrame, a next state of each of the four instructions. -/
theorem witness_frame : ∃ t0 t1 t2 t3 : State, exec (.lookupDec 61#8) State.reset = .next t0 ∧
    exec (.lookupEnc 63#8) State.reset = .next t1 ∧ exec (.repackDec 63#6 0#6 0#6 63#6) State.reset = .next t2 ∧
    exec (.repackEnc 255#8 0#8 255#8) State.reset = .next t3 := ⟨_, _, _, _, rfl, rfl, rfl, rfl⟩

/-- OutputsDependOnInputsAlone: two states that differ in their output ports, one showing a fault. -/
theorem witness_two_states :
    let s := holding 0x0000041#26
    let s' := { holding 0x0000041#26 with dout := 7#24, fault := true, fcode := 0b01#2 }
    s.task = .hold ∧ s'.task = .hold ∧ s.op = s'.op ∧ s.din = s'.din ∧ s ≠ s' := by decide

/-- SamplingAgainChangesNothing. -/
theorem witness_sampling : (holding 0x2FFFFFF#26).task = .hold ∧ ∃ t, step (holding 0x2FFFFFF#26) = .next t :=
  ⟨rfl, _, rfl⟩

/-- LookupsIgnoreHighOperandBits: two operands that agree in `din[7:0]` alone, and equal results of a repacker. -/
theorem witness_ignored : lane8 0xFFFF54#24 0 = lane8 0x000054#24 0 ∧
    transact 0b10#2 0xFFFFFF#24 = transact 0b10#2 0xFFFFFF#24 := by decide

/-- FaultPortsNameTheCause: a transaction of each cause, and one without fault. -/
theorem witness_causes : transact 0b00#2 0#24 = .fault .alphabet ∧ transact 0b01#2 64#24 = .fault .tableIndex ∧
    transact 0b11#2 0#24 = .ok 0#24 := by decide

/-- UnusedDoutBitsAreZero, both clauses. -/
theorem witness_dout : instrResult (.lookupDec 47#8) = .ok 63#24 ∧ instrResult (.lookupEnc 51#8) = .ok 122#24 := by decide

/-- ReadyAfterFault, for each cause. -/
theorem witness_fault : exec (holding 0x00000FF#26).instr (holding 0x00000FF#26) = .fault (.block .alphabet) ∧
    exec (holding 0x1000040#26).instr (holding 0x1000040#26) = .fault (.block .tableIndex) := ⟨rfl, rfl⟩

/-- StepRunsTheHeldInstruction, both clauses. -/
theorem witness_held : (holding 0x0000054#26).task = .hold ∧
    decodeTableWord 32 0x3FFFFFF = some (.repackEnc 255#8 255#8 255#8) := by decide

/-- StepRunsThePresentedInstruction: a presented word that completes and one that faults. -/
theorem witness_presented :
    let s := State.reset.turnTo (.script [0x0000041#26] [])
    let s' := State.reset.turnTo (.script [0x0000040#26] [])
    s.task.move = .issue 0x0000041#26 ∧ s'.task.move = .issue 0x0000040#26 ∧
    (∃ t, exec (decode 0x0000041#26) (s.present 0x0000041#26) = .next t) ∧
    exec (decode 0x0000040#26) (s'.present 0x0000040#26) = .fault (.block .alphabet) :=
  ⟨rfl, rfl, ⟨_, rfl⟩, rfl⟩

/-- ScriptGivesEachTransactionsResult, both clauses (program P2's first two commands, then a fault). -/
theorem witness_script : [0x300614D#26, 0x1000013#26].map issue = [0x004593#24, 0x000054#24].map Result.ok ∧
    issue 0x10000FF#26 = .fault .tableIndex := by decide

/-- StepKeepsSound, inside a decode evaluation. -/
theorem witness_sound :
    let s := State.reset.turnTo (.decodeRun ⟨2, 4, [], [19#6, 22#6, 4#6, 0#6], []⟩)
    s.sound = true ∧ taskOf (step s) = some (.decodeRun ⟨2, 4, [], [], [0x4D#8, 0x61#8, 0x00#8]⟩) := by decide

/-- DecodeBlockExpansion, both clauses. -/
theorem witness_decodeBlock : decTable 84#8 = some 19#6 ∧ decTable 61#8 = some 0#6 ∧ decTable 36#8 = none := by decide

/-- DecodeChecksLengthFirst. -/
theorem witness_length : (codes "ad/").length % 4 ≠ 0 := by decide

/-- DecodeRefusesLongDeclaredLength, at the bound. -/
theorem witness_declared : (codes "TWFu").length % 4 = 0 ∧ 3 * ((codes "TWFu").length / 4) < 4 := by decide

/-- DecodeReportsFirstInvalidCharacter (W1). -/
theorem witness_invalid : (codes "ad" ++ 36#8 :: codes "=").length % 4 = 0 ∧
    2 ≤ 3 * ((codes "ad" ++ 36#8 :: codes "=").length / 4) ∧ (∀ x ∈ codes "ad", inAlphabet x = true) ∧
    inAlphabet 36#8 = false := by decide

/-- DecodeAcceptsAnyPadding, with '=' in the middle and the largest declared length. -/
theorem witness_padding : (codes "TQ=A").length % 4 = 0 ∧ 3 ≤ 3 * ((codes "TQ=A").length / 4) ∧
    ∀ c ∈ codes "TQ=A", inAlphabet c = true := by decide

/-- DecodeTruncates. -/
theorem witness_truncate : 1 ≤ 3 ∧ hostDecode (codes "TWFu") 3 = .output [0x4D#8, 0x61#8, 0x6E#8] := by decide

/-- EncodeSucceedsAndPads and BlockRepackingEqualsStreamRepacking, each clause. -/
theorem witness_rests : [1#8].length % 3 = 1 ∧ [1#8, 2#8].length % 3 = 2 ∧ ([] : List Byte).length % 3 = 0 := by decide

/-- DecodeAgreesWithStandardDecoding, for each number of '='. -/
theorem witness_canonical : canonical (codes "TWFu") 0 = true ∧ canonical (codes "TWE") 1 = true ∧
    canonical (codes "TQ") 2 = true ∧ canonical (codes "TR") 2 = false := by decide

/-- MachineComputesDecode, each clause. -/
theorem witness_machine_decode : hostDecode (codes "TQ==") 1 = .output [0x4D#8] ∧
    hostDecode (codes "T$==") 1 = .error (.alphabet 1) ∧ hostDecode (codes "TQ==") 4 = .refused := by decide

/-- EncodeEvaluationNeverFaults, each of the three tasks. -/
theorem witness_encode_tasks :
    (State.reset.turnTo (.encodeCall [1#8])).task = .encodeCall [1#8] ∧
    (State.reset.turnTo (.repackRun ⟨1, [1#8], []⟩)).task = .repackRun ⟨1, [1#8], []⟩ ∧
    (State.reset.turnTo (.lookupRun ⟨1, [63#6], []⟩)).task = .lookupRun ⟨1, [63#6], []⟩ := ⟨rfl, rfl, rfl⟩

/-- RepackWaitsForItsLookups. -/
theorem witness_block :
    let s := State.reset.turnTo (.decodeRun ⟨3, 0, codes "TWFu", [], []⟩)
    s.task = .decodeRun ⟨3, 0, codes "TWFu", [], []⟩ ∧ codes "TWFu" = 84#8 :: 87#8 :: 70#8 :: 117#8 :: [] ∧
    decTable 84#8 = some 19#6 ∧ decTable 87#8 = some 22#6 ∧ decTable 70#8 = some 5#6 ∧ decTable 117#8 = some 46#6 := by
  decide

/-- HostMeetsEndToEndProperties, each field's hypotheses. -/
theorem witness_endToEnd : hostEncode [0x4D#8] = .output (codes "TQ==") ∧ Task.decodeCall (codes "TQ==") 1 ≠ .hold ∧
    (∃ c ∈ codes "TQ==AB$A", inAlphabet c = false) ∧ (codes "TQ==AB$A").length % 4 = 0 ∧
    6 ≤ 3 * ((codes "TQ==AB$A").length / 4) ∧ (codes "ad/").length % 4 ≠ 0 ∧ canonical (codes "TWE") 1 = true := by decide

/-! ### Steps of the host -/

theorem test_reset_presents_nothing : refusalOf (step State.reset) = some .noTransaction := by decide
/-- P3: the third lookup aborts the evaluation at index 2. -/
theorem test_decode_step_aborts :
    faultOf (step (State.reset.turnTo (.decodeRun ⟨2, 2, codes "$=", [26#6, 29#6], []⟩))) =
      some (.host (.alphabet 2)) := by decide
/-- P1: after the last block, truncation to L = 2. -/
theorem test_decode_step_returns :
    taskOf (step (State.reset.turnTo (.decodeRun ⟨2, 4, [], [], [0x4D#8, 0x61#8, 0x00#8]⟩))) =
      some (.returned [0x4D#8, 0x61#8]) := by decide
/-- P2: one '=' is appended. -/
theorem test_encode_step_returns :
    taskOf (step (State.reset.turnTo (.lookupRun ⟨2, [], [84#8, 87#8, 69#8]⟩))) = some (.returned (codes "TWE=")) := by
  decide

end Sys2Proof.Tests
end

section
/-! ### The held transaction and the outputs it settles on -/

namespace Sys2Proof.Machine

/-- While the host holds the inputs, a step is the meaning of the instruction on the ports (R16). -/
theorem step_of_hold {s : State} (h : s.task = .hold) : step s = exec s.instr s := by
  have turn_back (d : Lanes) : (s.drive d).turnTo .hold = s.drive d := by rw [← h]; rfl
  rw [exec_eq_complete]
  cases hr : instrResult s.instr <;>
    simp [step, h, Task.move, transactionStep_eq, hr, Task.absorb, Task.abort, turn_back]

/-- The instruction of the ports gives the ports' transaction (R7, R16). -/
theorem instrResult_instr (s : State) : instrResult s.instr = transact s.op s.din := rfl

theorem settledOutputs_of_ok {op : BitVec 2} {din d : Lanes} (h : transact op din = .ok d) :
    settledOutputs op din = ⟨d, false, 0b00#2⟩ := by
  simp [settledOutputs, h, Result.outputs]

theorem settledOutputs_of_fault {op : BitVec 2} {din : Lanes} {code : FaultCode}
    (h : transact op din = .fault code) :
    settledOutputs op din = ⟨Config.faultDout op din, true, code.fcode⟩ := by
  simp [settledOutputs, h, Result.outputs]

/-- The two repackers always end with data (R62, R72). -/
theorem transact_repack_ok {op : BitVec 2} (h : op = 0b10#2 ∨ op = 0b11#2) (din : Lanes) :
    ∃ d, transact op din = .ok d := by
  rcases h with rfl | rfl
  · exact ⟨_, rfl⟩
  · exact ⟨_, rfl⟩

/-- The host reads back the result whose outputs are on the ports (R14, R15, R87). -/
theorem read_outputs (op : BitVec 2) (din : Lanes) (r : Result) : (r.outputs op din).read = some r := by
  rcases r with d | (_ | _) <;> rfl

/-- Settles O23: a next state of an instruction is the state with a data result driven on its output ports. -/
theorem transactionFrame : Obligations.TransactionFrame := by
  intro i s t h
  obtain ⟨d, -, rfl⟩ := exec_eq_next h
  simp

/-- Settles O24: a held step is `complete` of the ports' transaction, which reads `op` and `din` alone. -/
theorem outputsDependOnInputsAlone : Obligations.OutputsDependOnInputsAlone := by
  intro s s' hs hs' hop hdin
  have same : instrResult s.instr = instrResult s'.instr := by simp only [instrResult_instr, hop, hdin]
  rw [step_of_hold hs, step_of_hold hs', exec_eq_complete, exec_eq_complete, same]
  cases instrResult s'.instr with
  | ok d => exact .inl ⟨s.drive d, s'.drive d, by simp⟩
  | fault code => exact .inr ⟨code, by simp⟩

/-- Settles O25: the first sample leaves the inputs held, so the second drives the same data. -/
theorem samplingAgainChangesNothing : Obligations.SamplingAgainChangesNothing := by
  intro s t hs h
  rw [step_of_hold hs] at h
  obtain ⟨d, hd, rfl⟩ := exec_eq_next h
  have again : instrResult (s.drive d).instr = .ok d := hd
  rw [step_of_hold (by simpa using hs), exec_eq_complete, again]
  rfl

/-- Settles O27, by the two kinds of result. -/
theorem faultPortsNameTheCause : Obligations.FaultPortsNameTheCause := by
  intro op din
  cases hr : transact op din with
  | ok d => simp [settledOutputs_of_ok hr]
  | fault code =>
    have noRepack : ¬(op = 0b10#2 ∨ op = 0b11#2) := fun h => by
      obtain ⟨d, hd⟩ := transact_repack_ok h din
      simp [hr] at hd
    rcases code.fcode_cases with ⟨rfl, hc⟩ | ⟨rfl, hc⟩ <;>
      simp [settledOutputs_of_fault hr, hc, noRepack]

/-- Settles O29: `read_outputs` on the settled outputs; `fcode = 0b11` names no cause under either value of `fault`. -/
theorem hostReadsTheResult : Obligations.HostReadsTheResult := by
  refine ⟨fun op din => read_outputs op din _, fun d f => ?_⟩
  cases f <;> rfl

/-- Settles O31: both clauses are `step_of_hold`. -/
theorem stepRunsTheHeldInstruction : Obligations.StepRunsTheHeldInstruction := by
  refine ⟨fun s hs => step_of_hold hs, fun s nbits w i h => ?_⟩
  have hi : decode (BitVec.ofNat 26 w) = i := by
    unfold decodeTableWord decodeNumber at h
    split_ifs at h
    simpa using h
  rw [step_of_hold rfl, ← hi]
  rfl

/-- Settles O32: the step is the host's `answer` to the presented word's outcome, data in one clause, a fault in the
other. -/
theorem stepRunsThePresentedInstruction : Obligations.StepRunsThePresentedInstruction := by
  intro s w hm
  constructor
  · intro t h
    simp [step, hm, transactionStep, h, answer]
  · intro code h
    simp [step, hm, transactionStep, h, answer]

end Sys2Proof.Machine
end

section
/-! ### A fault leaves nothing behind, and a list of transactions -/

namespace Sys2Proof.Machine

/-- A held word with a data result: the next state is of the word and its result alone, whatever stood on the ports. -/
theorem step_hold_of_ok (s : State) {w : CmdWord} {d : Lanes} (h : issue w = .ok d) :
    step ((s.present w).turnTo .hold) = .next ⟨cmdOp w, cmdDin w, d, false, 0b00#2, .hold⟩ := by
  have hr : instrResult ((s.present w).turnTo .hold).instr = .ok d := h
  rw [step_of_hold rfl, exec_eq_complete, hr]
  rfl

/-- A held word that faults stops the step with the block's fault (R93). -/
theorem step_hold_of_fault (s : State) {w : CmdWord} {code : FaultCode} (h : issue w = .fault code) :
    step ((s.present w).turnTo .hold) = .fault (.block code) := by
  have hr : instrResult ((s.present w).turnTo .hold).instr = .fault code := h
  rw [step_of_hold rfl, exec_eq_complete, hr]
  rfl

/-- Settles O30: neither the held step's next state nor its fault reads the state the word is presented in. -/
theorem readyAfterFault : Obligations.ReadyAfterFault := by
  intro s code w h
  obtain ⟨code', hr, ⟨⟩⟩ := exec_eq_fault h
  have ports := settledOutputs_of_fault (instrResult_instr s ▸ hr)
  refine ⟨by simp [State.afterFault, ports], by simp [State.afterFault, ports], ?_⟩
  cases hw : issue w with
  | ok d => exact .inl ⟨d, _, rfl, step_hold_of_ok _ hw, step_hold_of_ok _ hw, rfl, rfl⟩
  | fault c => exact .inr ⟨c, step_hold_of_fault _ hw, step_hold_of_fault _ hw⟩

/-- A script's words with data results are worked off one a step, in order, and their results are appended. -/
theorem run_script_prefix {ws : List CmdWord} {ds : List Lanes} (h : ws.map issue = ds.map Result.ok)
    (rest : List CmdWord) (results : List Lanes) (s : State) (hs : s.task = .script (ws ++ rest) results) :
    ∃ t : State, t.task = .script rest (results ++ ds) ∧
      ∀ k, Host.Core.run core (ws.length + k) s = Host.Core.run core k t := by
  induction ws generalizing ds results s with
  | nil =>
    obtain rfl : ds = [] := by simpa using h.symm
    exact ⟨s, by simpa using hs, fun k => by simp⟩
  | cons w ws ih =>
    obtain _ | ⟨d, ds⟩ := ds
    · simp at h
    obtain ⟨hw, hws⟩ : issue w = .ok d ∧ ws.map issue = ds.map Result.ok := by simpa using h
    have hstep := step_of_issue_ok (s := s) (w := w) (by simp [hs, Task.move]) hw
    obtain ⟨t, ht, hrun⟩ := ih hws (results ++ [d]) (((s.present w).drive d).turnTo (s.task.absorb d))
      (by simp [hs, Task.absorb])
    refine ⟨t, by simpa using ht, fun k => ?_⟩
    rw [List.length_cons, Nat.add_right_comm, run_succ_of_next hstep, hrun]

/-- Settles O33: after the prefix of data results, the run is over, or the next word's fault stops it. -/
theorem scriptGivesEachTransactionsResult : Obligations.ScriptGivesEachTransactionsResult := by
  intro s ws ds h
  constructor
  · obtain ⟨t, ht, hrun⟩ := run_script_prefix h [] [] (s.turnTo (.script ws [])) (by simp)
    exact ⟨t, hrun 0, ht⟩
  · intro w code rest hw
    obtain ⟨t, ht, hrun⟩ := run_script_prefix h (w :: rest) [] (s.turnTo (.script (ws ++ w :: rest) [])) rfl
    have hstep := step_of_issue_fault (s := t) (w := w) (by simp [ht, Task.move]) hw
    rw [hrun 1, run_succ_of_fault hstep]
    simp [ht, Task.abort]

end Sys2Proof.Machine
end

section
/-! ### Unused bits of `dout` -/

namespace Sys2Proof.Machine

/-- A value of `w` bits on a port leaves the bits from `w` up 0 (R36). -/
theorem extractLsb'_setWidth_high {w : Nat} (x : BitVec w) (n len : Nat) :
    (x.setWidth n).extractLsb' w len = 0#len := by
  apply BitVec.eq_of_getLsbD_eq
  intro k _
  simp

/-- A byte on a port is in lane 0 (R36). -/
@[simp] theorem lane8_setWidth (a : Byte) : lane8 (a.setWidth 24) 0 = a := by
  apply BitVec.eq_of_toNat_eq
  simpa [lane8] using a.isLt

/-- The classes of R50 are disjoint and cover 0 to 63, so the counter of R52 is 1 exactly there. -/
theorem encCount_eq (i : Byte) : encCount i = if i.toNat ≤ 63 then 1 else 0 := by
  simp only [encCount, indUp, indLo, indDg, indIdxPlus, indIdxSlash, b01, Bool.and_eq_true, decide_eq_true_eq,
    beq_iff_eq]
  omega

/-- The sum of R51 has one term that is not 0: that of the index's class. -/
theorem encAscii_eq (i : Byte) :
    encAscii i = ((if i.toNat ≤ 25 then i.toNat + 65 else if i.toNat ≤ 51 then i.toNat + 71
      else if i.toNat ≤ 61 then i.toNat - 4 else if i.toNat = 62 then 43
      else if i.toNat = 63 then 47 else 0 : Nat) : Int) := by
  simp only [encAscii, indUp, indLo, indDg, indIdxPlus, indIdxSlash, b01, Bool.and_eq_true, decide_eq_true_eq,
    beq_iff_eq, ite_mul, one_mul, zero_mul, Nat.cast_ite]
  omega

/-- The table of R56 is R51's sum up to 63, and ends there. -/
theorem encTable_eq_encAscii (i : Byte) :
    encTable i = if i.toNat ≤ 63 then some (BitVec.ofInt 8 (encAscii i)) else none := by
  rw [encAscii_eq, BitVec.ofInt_natCast]
  grind [encTable]

/-- LOOKUP.ENC is the table of R56, and TABLE_INDEX where the table ends (R53). -/
theorem lookupEncResult_eq_encTable (i : Byte) :
    lookupEncResult i = (encTable i).elim (.fault .tableIndex) (fun a => .ok (a.setWidth 24)) := by
  by_cases h : i.toNat ≤ 63 <;> simp [lookupEncResult, encCount_eq, encTable_eq_encAscii, h]

/-- The table of R56 is the listing of R46, read by index. -/
theorem encTable_eq_getElem? (i : Byte) : encTable i = alphabetText[i.toNat]? := by
  have listed : ∀ k < 64, encTable (BitVec.ofNat 8 k) = alphabetText[k]? := by decide
  by_cases h : i.toNat < 64
  · simpa using listed i.toNat h
  · have ends : alphabetText.length ≤ i.toNat := Nat.le_trans (by decide) (Nat.le_of_not_lt h)
    rw [encTable_eq_encAscii, if_neg (by omega), List.getElem?_eq_none ends]

/-- A data result of LOOKUP.ENC is a character of the listing of R46. -/
theorem lookupEncResult_ok {i : Byte} {d : Lanes} (h : lookupEncResult i = .ok d) :
    ∃ a ∈ alphabetText, d = a.setWidth 24 := by
  rw [lookupEncResult_eq_encTable] at h
  cases ha : encTable i with
  | none => simp [ha] at h
  | some a =>
    exact ⟨a, List.mem_of_getElem? (encTable_eq_getElem? i ▸ ha), by simpa [ha] using h.symm⟩

/-- A data result of LOOKUP.DEC is a symbol (R43). -/
theorem lookupDecResult_ok {c : Byte} {d : Lanes} (h : lookupDecResult c = .ok d) :
    ∃ v : Sextet, d = v.setWidth 24 := by
  unfold lookupDecResult at h
  split_ifs at h
  exact ⟨_, by simpa using h.symm⟩

/-- Settles O28: what the lookups put on `dout` is zero-extended from its own width. -/
theorem unusedDoutBitsAreZero : Obligations.UnusedDoutBitsAreZero := by
  constructor
  · intro c d h
    obtain ⟨v, rfl⟩ := lookupDecResult_ok h
    exact extractLsb'_setWidth_high v 24 18
  · intro i d h
    obtain ⟨a, ha, rfl⟩ := lookupEncResult_ok h
    exact ⟨extractLsb'_setWidth_high a 24 16, by simpa using ha⟩

end Sys2Proof.Machine
end

section
/-! ### The soundness invariant -/

namespace Sys2Proof.Machine

/-- Settles O35: no fault on the ports and an idle host, by evaluating the closed state. -/
theorem resetIsSound : Obligations.ResetIsSound := by
  unfold Obligations.ResetIsSound
  decide

/-- A decode evaluation that presents a word has all four symbols of its block, or has room and a character for one
more (R81, R102). -/
theorem DecodeRun.move_eq_issue {r : DecodeRun} {w : CmdWord} (h : r.move = .issue w) :
    (∃ s0 s1 s2 s3, r.syms = [s0, s1, s2, s3]) ∨ (r.syms.length ≠ 4 ∧ r.todo ≠ []) := by
  unfold DecodeRun.move at h
  split at h
  next hs => exact .inl ⟨_, _, _, _, hs⟩
  next c cs ht hs =>
    refine .inr ⟨fun h4 => ?_, by simp [ht]⟩
    obtain ⟨s0, s1, s2, s3, h4⟩ := List.length_eq_four.mp h4
    exact hs _ _ _ _ h4
  next => simp at h

/-- With four symbols waiting, decode takes the three bytes of REPACK.DEC (R81). -/
theorem DecodeRun.absorb_of_four {r : DecodeRun} {s0 s1 s2 s3 : Sextet} (h : r.syms = [s0, s1, s2, s3]) (d : Lanes) :
    r.absorb d = { r with syms := [], out := r.out ++ [lane8 d 0, lane8 d 1, lane8 d 2] } := by
  simp [DecodeRun.absorb, h]

/-- With fewer symbols waiting, decode takes the symbol of LOOKUP.DEC (R81). -/
theorem DecodeRun.absorb_of_ne_four {r : DecodeRun} (h : r.syms.length ≠ 4) (d : Lanes) :
    r.absorb d = { r with index := r.index + 1, todo := r.todo.tail, syms := r.syms ++ [lane6 d 0] } := by
  unfold DecodeRun.absorb
  split
  next hs => simp [hs] at h
  next => rfl

theorem DecodeRun.wf_iff (r : DecodeRun) :
    r.wf = true ↔ r.out.length % 3 = 0 ∧ r.syms.length ≤ 4 ∧ r.index = 4 * (r.out.length / 3) + r.syms.length ∧
      (r.index + r.todo.length) % 4 = 0 ∧ r.declared ≤ 3 * ((r.index + r.todo.length) / 4) := by
  simp [DecodeRun.wf, and_assoc]

/-- Decode's answer to a transaction keeps its counts in step: a block of four symbols becomes three bytes, and a
character one symbol. -/
theorem DecodeRun.wf_absorb {r : DecodeRun} {w : CmdWord} (hwf : r.wf = true) (hm : r.move = .issue w) (d : Lanes) :
    (r.absorb d).wf = true := by
  rw [DecodeRun.wf_iff] at hwf ⊢
  rcases DecodeRun.move_eq_issue hm with ⟨s0, s1, s2, s3, hs⟩ | ⟨hs, ht⟩
  · simp only [absorb_of_four hs, hs, List.length_append, List.length_cons, List.length_nil] at hwf ⊢
    omega
  · have := List.length_pos_iff.mpr ht
    simp only [absorb_of_ne_four hs, List.length_append, List.length_tail, List.length_cons, List.length_nil]
    omega

theorem RepackRun.wf_iff (r : RepackRun) :
    r.wf = true ↔ r.syms.length % 4 = 0 ∧ (r.todo = [] → r.syms.length = 4 * ((r.length + 2) / 3)) ∧
      (r.todo ≠ [] → r.length = 3 * (r.syms.length / 4) + r.todo.length) := by
  by_cases h : r.todo = [] <;> simp [RepackRun.wf, h]

theorem RepackRun.todo_ne_nil_of_issue {r : RepackRun} {w : CmdWord} (h : r.move = .issue w) : r.todo ≠ [] := by
  intro ht
  simp [RepackRun.move, ht] at h

/-- Encode's answer to REPACK.ENC accounts for the block's bytes with four symbols (R74, R85). -/
theorem RepackRun.wf_absorb {r : RepackRun} (hwf : r.wf = true) (ht : r.todo ≠ []) (d : Lanes) :
    (r.absorb d).wf = true := by
  obtain ⟨h4, -, hlen⟩ := r.wf_iff.mp hwf
  have := hlen ht
  have := List.length_pos_iff.mpr ht
  simp only [RepackRun.wf_iff, RepackRun.absorb, List.length_append, List.length_cons, List.length_nil,
    List.length_drop, ne_eq, List.drop_eq_nil_iff]
  omega

/-- The kept symbols are among the symbols of the blocks (R73). -/
theorem symbolCount_le (n : Nat) : symbolCount n ≤ 4 * ((n + 2) / 3) := by
  unfold symbolCount
  omega

/-- Encode's answer to LOOKUP.ENC exchanges a symbol for its character. -/
theorem LookupRun.wf_absorb {r : LookupRun} {w : CmdWord} (hwf : r.wf = true) (hm : r.move = .issue w) (d : Lanes) :
    (r.absorb d).wf = true := by
  cases ht : r.todo with
  | nil => simp [LookupRun.move, ht] at hm
  | cons s todo =>
    simp only [LookupRun.wf, LookupRun.absorb, ht, beq_iff_eq, List.tail_cons, List.length_append, List.length_cons,
      List.length_nil] at hwf ⊢
    omega

/-- What the host makes of a data result is well formed. -/
theorem Task.wf_absorb {t : Task} {w : CmdWord} (hwf : t.wf = true) (hm : t.move = .issue w) (d : Lanes) :
    (t.absorb d).wf = true := by
  cases t with
  | decodeRun r => exact DecodeRun.wf_absorb hwf hm d
  | repackRun r => exact RepackRun.wf_absorb hwf (RepackRun.todo_ne_nil_of_issue hm) d
  | lookupRun r => exact LookupRun.wf_absorb hwf hm d
  | script todo results => cases todo <;> rfl
  | idle | hold | decodeCall | encodeCall | returned => exact hwf

/-- Only a host that holds the inputs samples them again. -/
theorem Task.eq_hold_of_sample {t : Task} (h : t.move = .sample) : t = .hold := by
  cases t with
  | hold => rfl
  | script todo results => cases todo <;> simp [Task.move] at h
  | decodeCall chars declared =>
    simp only [Task.move, decodeCallMove] at h
    split_ifs at h
  | decodeRun r =>
    simp only [Task.move, DecodeRun.move] at h
    split at h <;> simp at h
  | repackRun r =>
    simp only [Task.move, RepackRun.move] at h
    split at h <;> simp at h
  | lookupRun r =>
    simp only [Task.move, LookupRun.move] at h
    split at h <;> simp at h
  | idle | encodeCall | returned => simp [Task.move] at h

/-- A call of decode goes on only with lengths that pass its checks (R80, R83). -/
theorem wf_of_decodeCallMove_turn {chars : List Byte} {declared : Nat} {t : Task}
    (h : decodeCallMove chars declared = .turn t) : t.wf = true := by
  unfold decodeCallMove at h
  split_ifs at h with hlen hdecl
  obtain ⟨⟩ := h
  simp only [Task.wf, DecodeRun.wf_iff, List.length_nil, Nat.zero_le, true_and]
  omega

/-- Between transactions decode only returns (R82). -/
theorem DecodeRun.returned_of_turn {r : DecodeRun} {t : Task} (h : r.move = .turn t) : ∃ out, t = .returned out := by
  unfold DecodeRun.move at h
  split at h
  next => simp at h
  next => simp at h
  next => exact ⟨_, by simpa using h.symm⟩

/-- Encode's second loop starts, once no byte is left, on the `m` kept symbols (R73, R85). -/
theorem RepackRun.wf_of_turn {r : RepackRun} {t : Task} (hwf : r.wf = true) (h : r.move = .turn t) : t.wf = true := by
  unfold RepackRun.move at h
  split at h
  next ht =>
    obtain ⟨⟩ := h
    obtain ⟨-, hdone, -⟩ := r.wf_iff.mp hwf
    simp [Task.wf, LookupRun.wf, hdone ht, symbolCount_le]
  all_goals simp at h

/-- Between transactions encode's second loop only returns (R86). -/
theorem LookupRun.returned_of_turn {r : LookupRun} {t : Task} (h : r.move = .turn t) : ∃ out, t = .returned out := by
  unfold LookupRun.move at h
  split at h
  · exact ⟨_, by simpa using h.symm⟩
  · simp at h

/-- The task the host turns to between transactions is well formed. -/
theorem Task.wf_of_turn {t t' : Task} (hwf : t.wf = true) (h : t.move = .turn t') : t'.wf = true := by
  cases t with
  | decodeCall chars declared => exact wf_of_decodeCallMove_turn h
  | decodeRun r =>
    obtain ⟨out, rfl⟩ := DecodeRun.returned_of_turn h
    rfl
  | encodeCall bytes =>
    obtain ⟨⟩ := h
    simp +contextual [Task.wf, RepackRun.wf_iff]
  | repackRun r => exact RepackRun.wf_of_turn hwf h
  | lookupRun r =>
    obtain ⟨out, rfl⟩ := LookupRun.returned_of_turn h
    rfl
  | script todo results => cases todo <;> simp [Task.move] at h
  | idle | hold | returned => simp [Task.move] at h

/-- A transaction's data on the ports reports no fault, so soundness is that of the host's evaluation (R14, R15). -/
theorem State.sound_drive_turnTo (s : State) (d : Lanes) (t : Task) : ((s.drive d).turnTo t).sound = t.wf := by
  simp [State.sound]

theorem State.wf_task_of_sound {s : State} (h : s.sound = true) : s.task.wf = true := by
  simp only [State.sound, Bool.and_eq_true] at h
  exact h.2

/-- A move between transactions keeps the ports, so soundness stays if the new task is well formed. -/
theorem State.sound_turnTo {s : State} {t : Task} (h : s.sound = true) (ht : t.wf = true) :
    (s.turnTo t).sound = true := by
  simp_all [State.sound]

/-- Settles O36: by what the step was, a sample of held inputs, a presented word or a turn. -/
theorem stepKeepsSound : Obligations.StepKeepsSound := by
  intro s t hs h
  have hwf := State.wf_task_of_sound hs
  rcases step_eq_next h with ⟨hm, d, -, rfl⟩ | ⟨w, hm, d, -, rfl⟩ | ⟨task, hm, rfl⟩
  · rw [State.sound_drive_turnTo, Task.eq_hold_of_sample hm]
    rfl
  · rw [State.sound_drive_turnTo]
    exact Task.wf_absorb hwf hm d
  · exact State.sound_turnTo hs (Task.wf_of_turn hwf hm)

end Sys2Proof.Machine
end

section
/-! ### The command word: encode, decode and the opcode table -/

namespace Sys2Proof

open Sys2Proof.Machine

@[simp] theorem cmdOp_append (op : BitVec 2) (din : Lanes) : cmdOp (op ++ din) = op :=
  BitVec.extractLsb'_append_eq_left

@[simp] theorem cmdDin_append (op : BitVec 2) (din : Lanes) : cmdDin (op ++ din) = din :=
  BitVec.extractLsb'_append_eq_right

/-- A command word is its two fields (R30). -/
theorem cmdOp_append_cmdDin (w : CmdWord) : cmdOp w ++ cmdDin w = w :=
  (BitVec.extractLsb'_append_extractLsb'_eq_extractLsb' rfl).trans BitVec.extractLsb'_eq_self

@[simp] theorem Op.ofBits_bits (op : Op) : Op.ofBits op.bits = op := by cases op <;> rfl

/-- Every value of the `op` field is that of the operation it selects (R34). -/
@[simp] theorem Op.bits_ofBits : ∀ b : BitVec 2, (Op.ofBits b).bits = b := by decide

/-- A `din` is its four 6-bit lanes (R21). -/
theorem pack6_lane6 (d : Lanes) : pack6 (lane6 d 0) (lane6 d 1) (lane6 d 2) (lane6 d 3) = d := by
  apply BitVec.eq_of_getLsbD_eq
  intro i hi
  rw [getLsbD_pack6]
  interval_cases i <;> simp [getElem_lane6]

/-- A `din` is its three 8-bit lanes (R21). -/
theorem pack8_lane8 (d : Lanes) : pack8 (lane8 d 0) (lane8 d 1) (lane8 d 2) = d := by
  apply BitVec.eq_of_getLsbD_eq
  intro i hi
  rw [getLsbD_pack8]
  interval_cases i <;> simp [getElem_lane8]

/-- Lane 0 back on a port is `din` with bits 23:8 cleared (R33). -/
theorem setWidth_lane8 (d : Lanes) : (lane8 d 0).setWidth 24 = d &&& 0xFF#24 := by
  apply BitVec.eq_of_getLsbD_eq
  intro i hi
  interval_cases i <;> simp [getElem_lane8]

@[simp] theorem op_decodePorts (op : BitVec 2) (din : Lanes) : (decodePorts op din).op = Op.ofBits op := by
  unfold decodePorts
  split <;> simp [Instr.op, *]

/-- The ports an instruction is presented with present that instruction (R32). -/
theorem decodePorts_bits_din (i : Instr) : decodePorts i.op.bits i.din = i := by
  cases i with
  | lookupDec c => simp [decodePorts, Instr.op, Instr.din]
  | lookupEnc i => simp [decodePorts, Instr.op, Instr.din]
  | repackDec g0 g1 g2 g3 => simp [decodePorts, Instr.op, Instr.din, lane6_pack6]
  | repackEnc b0 b1 b2 => simp [decodePorts, Instr.op, Instr.din, lane8_pack8]

/-- The operands of a lookup keep lane 0 of `din` alone; those of a repacker keep all of `din` (R33). -/
theorem din_decodePorts (op : BitVec 2) (din : Lanes) :
    (decodePorts op din).din =
      match Op.ofBits op with
      | .lookupDec | .lookupEnc => din &&& 0xFF#24
      | .repackDec | .repackEnc => din := by
  unfold decodePorts
  cases Op.ofBits op with
  | lookupDec => exact setWidth_lane8 din
  | lookupEnc => exact setWidth_lane8 din
  | repackDec => exact pack6_lane6 din
  | repackEnc => exact pack8_lane8 din

@[simp] theorem decode_encode (i : Instr) : decode (encode i) = i := by
  simp [decode, encode, decodePorts_bits_din]

@[simp] theorem op_decode (w : CmdWord) : (decode w).op = Op.ofBits (cmdOp w) := op_decodePorts _ _

/-- The mask of R33 and R37 keeps `op` and `din[7:0]`. -/
theorem and_lookupMask (w : CmdWord) : w &&& 0x30000FF#26 = cmdOp w ++ (cmdDin w &&& 0xFF#24) := by
  have mask : 0x30000FF#26 = BitVec.allOnes 2 ++ 0xFF#24 := by decide
  conv_lhs => rw [← cmdOp_append_cmdDin w, mask, BitVec.and_append, BitVec.and_allOnes]

/-- A command word is of an operation's row exactly when its `op` field selects that operation (R31). -/
theorem row_matches (op : Op) (w : CmdWord) : op.row.matches w = decide (op = (decode w).op) := by
  have hmask : op.row.mask = BitVec.allOnes 2 ++ 0#24 := by cases op <;> decide
  have hvalue : op.row.value = op.bits ++ 0#24 := by cases op <;> decide
  have hand : w &&& op.row.mask = cmdOp w ++ 0#24 := by
    conv_lhs => rw [← cmdOp_append_cmdDin w, hmask, BitVec.and_append, BitVec.and_allOnes, BitVec.and_zero]
  have hop : op.bits = cmdOp w ↔ op = Op.ofBits (cmdOp w) :=
    ⟨fun h => by rw [← h, Op.ofBits_bits], fun h => by rw [h, Op.bits_ofBits]⟩
  rw [Row.matches, hand, hvalue, op_decode, Bool.eq_iff_iff, beq_iff_eq, decide_eq_true_iff, ← hop]
  exact (BitVec.append_left_inj _).trans eq_comm

/-- Settles O1: the fields of a packed word, and the lanes of packed operands, are what was packed. -/
theorem encodedInstructionDecodesBack : Obligations.EncodedInstructionDecodesBack := decode_encode

/-- Settles O2: the operation gives the `op` field back, and `din_decodePorts` what stays of `din`. -/
theorem decodedWordEncodesBack : Obligations.DecodedWordEncodesBack := by
  intro w
  have h : encode (decode w) = cmdOp w ++ (decodePorts (cmdOp w) (cmdDin w)).din := by
    simp [encode, decode]
  rw [h, din_decodePorts, op_decode]
  cases Op.ofBits (cmdOp w) with
  | lookupDec => exact (and_lookupMask w).symm
  | lookupEnc => exact (and_lookupMask w).symm
  | repackDec => exact cmdOp_append_cmdDin w
  | repackEnc => exact cmdOp_append_cmdDin w

/-- Settles O3: of the four rows, the filter keeps the one of the decoded operation. -/
theorem everyWordMatchesExactlyItsRow : Obligations.EveryWordMatchesExactlyItsRow := by
  intro w
  simp only [opcodeTable, List.filter_cons, List.filter_nil, row_matches]
  cases (decode w).op <;> rfl

end Sys2Proof
end

section
/-! ### The assembler's range check -/

namespace Sys2Proof

/-- Operands fit when there is one for each field, inside its range (R37). -/
theorem operandsFit_iff_forall₂ (ws ns : List Nat) :
    operandsFit ws ns = true ↔ List.Forall₂ (fun w n => n < 2 ^ w) ws ns := by
  induction ws generalizing ns with
  | nil => cases ns <;> simp [operandsFit]
  | cons w ws ih => cases ns <;> simp [operandsFit, ih]

theorem wellFormed_line (i : Instr) : i.line.wellFormed = true := by
  rw [Line.wellFormed, operandsFit_iff_forall₂]
  cases i with
  | lookupDec c => exact .cons c.isLt .nil
  | lookupEnc i => exact .cons i.isLt .nil
  | repackDec g0 g1 g2 g3 => exact .cons g0.isLt (.cons g1.isLt (.cons g2.isLt (.cons g3.isLt .nil)))
  | repackEnc b0 b1 b2 => exact .cons b0.isLt (.cons b1.isLt (.cons b2.isLt .nil))

/-- The line that spells an instruction gives it back (R37). -/
theorem instr?_line (i : Instr) : i.line.instr? = some i := by
  rw [Line.instr?, if_pos (wellFormed_line i)]
  cases i <;> simp [Instr.line]

/-- A well-formed line spells an instruction: each operand is a value of its field (R37). -/
theorem exists_line_eq {l : Line} (h : l.wellFormed = true) : ∃ i : Instr, i.line = l := by
  obtain ⟨op, ns⟩ := l
  rw [Line.wellFormed, operandsFit_iff_forall₂] at h
  cases op with
  | lookupDec =>
    obtain _ | ⟨hc, _ | _⟩ := h
    exact ⟨.lookupDec ⟨_, hc⟩, rfl⟩
  | lookupEnc =>
    obtain _ | ⟨hi, _ | _⟩ := h
    exact ⟨.lookupEnc ⟨_, hi⟩, rfl⟩
  | repackDec =>
    obtain _ | ⟨h0, _ | ⟨h1, _ | ⟨h2, _ | ⟨h3, _ | _⟩⟩⟩⟩ := h
    exact ⟨.repackDec ⟨_, h0⟩ ⟨_, h1⟩ ⟨_, h2⟩ ⟨_, h3⟩, rfl⟩
  | repackEnc =>
    obtain _ | ⟨h0, _ | ⟨h1, _ | ⟨h2, _ | _⟩⟩⟩ := h
    exact ⟨.repackEnc ⟨_, h0⟩ ⟨_, h1⟩ ⟨_, h2⟩, rfl⟩

/-- Settles O6: each operand is below 2 to the width of its own type. -/
theorem everyInstructionWellFormed : Obligations.EveryInstructionWellFormed := wellFormed_line

/-- Settles O5: a well-formed line is the line of an instruction, which `instr?_line` gives back. -/
theorem assemblerRefusesExactlyOutOfRangeLines : Obligations.AssemblerRefusesExactlyOutOfRangeLines := by
  intro l
  constructor
  · intro h
    obtain ⟨i, rfl⟩ := exists_line_eq h
    exact ⟨i, instr?_line i, rfl⟩
  · intro h
    simp [Line.instr?, h]

end Sys2Proof
end

section
/-! ### Disassembly read back by the assembler -/

namespace Sys2Proof.Machine

/-- A character that neither ends a word nor begins a quoted operand (R37, log 6). -/
def plainChar (c : Char) : Bool := c != '\'' && c != ' ' && c != ',' && c != ';'

theorem lexLine_cons_plain {c : Char} (h : plainChar c = true) (acc rest : List Char) :
    lexLine acc (c :: rest) = lexLine (acc ++ [c]) rest := by
  simp only [plainChar, Bool.and_eq_true, bne_iff_ne] at h
  rw [lexLine] <;> simp [h]

/-- Plain characters go to the word read so far. -/
theorem lexLine_append_plain {cs : List Char} (h : ∀ c ∈ cs, plainChar c = true) (acc rest : List Char) :
    lexLine acc (cs ++ rest) = lexLine (acc ++ cs) rest := by
  induction cs generalizing acc with
  | nil => simp
  | cons c cs ih =>
    obtain ⟨hc, hcs⟩ := List.forall_mem_cons.mp h
    rw [List.cons_append, lexLine_cons_plain hc, ih hcs, List.append_assoc, List.singleton_append]

/-- The printed character is a comment to the assembler (log 6). -/
theorem lexLine_printableNote (acc : List Char) (i : Instr) : lexLine acc (printableNote i) = flushWord acc := by
  unfold printableNote
  split
  · split_ifs <;> simp [lexLine, flushWord]
  · simp [lexLine]

@[simp] theorem flushWord_nil : flushWord [] = [] := rfl

theorem flushWord_of_ne_nil {acc : List Char} (h : acc ≠ []) : flushWord acc = [.word acc] := by
  simp [flushWord, h]

theorem digitValue_decimalDigit (n : Nat) : digitValue 10 (decimalDigit n) = some (n % 10) := by
  have digits : ∀ k < 10, digitValue 10 (Char.ofNat (48 + k)) = some k := by decide
  exact digits (n % 10) (Nat.mod_lt n (by decide))

theorem decimalDigit_plain (n : Nat) : plainChar (decimalDigit n) = true := by
  have digits : ∀ k < 10, plainChar (Char.ofNat (48 + k)) = true := by decide
  exact digits (n % 10) (Nat.mod_lt n (by decide))

theorem decimalText_ne_nil (n : Nat) : decimalText n ≠ [] := by
  unfold decimalText
  split_ifs <;> simp

/-- A number in decimal is written in digits alone. -/
theorem exists_digit_of_mem_decimalText {n : Nat} {c : Char} (h : c ∈ decimalText n) : ∃ k, c = decimalDigit k := by
  unfold decimalText at h
  split_ifs at h <;> simp only [List.mem_cons, List.not_mem_nil, or_false] at h
  · exact ⟨_, h⟩
  · rcases h with h | h <;> exact ⟨_, h⟩
  · rcases h with h | h | h <;> exact ⟨_, h⟩

theorem decimalText_plain (n : Nat) : ∀ c ∈ decimalText n, plainChar c = true := by
  intro c hc
  obtain ⟨k, rfl⟩ := exists_digit_of_mem_decimalText hc
  exact decimalDigit_plain k

/-- A letter has no value in base 10, so it stands in no decimal text. -/
theorem not_mem_decimalText {c : Char} (hc : digitValue 10 c = none) (n : Nat) : c ∉ decimalText n := by
  intro hmem
  obtain ⟨k, rfl⟩ := exists_digit_of_mem_decimalText hmem
  simp [digitValue_decimalDigit] at hc

/-- A word without the letters that mark a base is read in decimal (R37). -/
theorem operandValue_word {cs : List Char} (hne : cs ≠ []) (hx : 'x' ∉ cs) (hb : 'b' ∉ cs) :
    operandValue (.word cs) = digitsValue 10 0 cs := by
  obtain ⟨d, ds, rfl⟩ := List.exists_cons_of_ne_nil hne
  unfold operandValue
  split <;> simp_all

/-- The decimal text of a number of up to three digits is read as that number (R37). -/
theorem operandValue_decimalText {n : Nat} (h : n < 1000) : operandValue (.word (decimalText n)) = some n := by
  have hx : 'x' ∉ decimalText n := not_mem_decimalText (by decide) n
  have hb : 'b' ∉ decimalText n := not_mem_decimalText (by decide) n
  rw [operandValue_word (decimalText_ne_nil n) hx hb]
  unfold decimalText
  split_ifs <;> simp only [digitsValue, digitValue_decimalDigit, Option.some.injEq] <;> omega

/-- The operands that disassembly prints are read back, whatever printed character follows (R37). -/
theorem operandValues_operandsText {ns : List Nat} (hne : ns ≠ []) (h : ∀ n ∈ ns, n < 1000) (i : Instr) :
    operandValues (lexLine [] (operandsText ns ++ printableNote i)) = some ns := by
  induction ns with
  | nil => exact absurd rfl hne
  | cons n ns ih =>
    obtain ⟨hn, hns⟩ := List.forall_mem_cons.mp h
    have hflush := flushWord_of_ne_nil (decimalText_ne_nil n)
    cases ns with
    | nil =>
      rw [operandsText, lexLine_append_plain (decimalText_plain n), List.nil_append, lexLine_printableNote, hflush]
      simp [operandValues, operandValue_decimalText hn]
    | cons m ns =>
      have hrest := ih (by simp) hns
      have hlex : lexLine [] (operandsText (n :: m :: ns) ++ printableNote i) =
          .word (decimalText n) :: .comma :: lexLine [] (operandsText (m :: ns) ++ printableNote i) := by
        simp only [operandsText, List.append_assoc]
        rw [lexLine_append_plain (decimalText_plain n)]
        simp [lexLine, hflush]
      rw [hlex, operandValues, operandValue_decimalText hn, hrest]

theorem opMnemonic_plain (op : Op) : ∀ c ∈ opMnemonic op, plainChar c = true := by
  rw [← List.all_eq_true]
  cases op <;> decide

theorem opMnemonic_ne_nil (op : Op) : opMnemonic op ≠ [] := by
  cases op <;> decide

theorem mnemonicOp_opMnemonic (op : Op) : mnemonicOp (opMnemonic op) = some op := by
  cases op <;> decide

/-- An instruction has operands, and they are bytes or symbols (R32). -/
theorem line_operands_lt (i : Instr) : i.line.operands ≠ [] ∧ ∀ n ∈ i.line.operands, n < 256 := by
  cases i <;> simp [Instr.line] <;> omega

theorem op_line (i : Instr) : i.line.op = i.op := by cases i <;> rfl

/-- What disassembly prints of an instruction is read as the line that spells it (R37). -/
theorem parseLine_disassemble (i : Instr) : parseLine (disassemble (encode i)) = some i.line := by
  obtain ⟨hne, hlt⟩ := line_operands_lt i
  have hoperands := operandValues_operandsText hne (fun n hn => Nat.lt_trans (hlt n hn) (by decide)) i
  have hlex : lexLine [] (disassemble (encode i)) =
      .word (opMnemonic i.op) :: lexLine [] (operandsText i.line.operands ++ printableNote i) := by
    simp only [disassemble, decode_encode, List.append_assoc]
    rw [lexLine_append_plain (opMnemonic_plain i.op)]
    simp [lexLine, flushWord_of_ne_nil (opMnemonic_ne_nil i.op)]
  rw [parseLine, hlex]
  simp [mnemonicOp_opMnemonic, hoperands, ← op_line]

/-- Settles O7: the printed line parses to the instruction's own line, which assembles to its word. -/
theorem disassemblyAssemblesBack : Obligations.DisassemblyAssemblesBack := by
  intro i
  simp [assemble, parseLine_disassemble, instr?_line]

end Sys2Proof.Machine
end

section
/-! ### The repackers as inverses, and ignored operand bits -/

namespace Sys2Proof.Machine

/-- Bit `i` of `fromBitsLSB`, for a bit in range (R6). -/
theorem getElem_fromBitsLSB (w : Nat) (bits : List Bool) (i : Nat) (h : i < w) :
    (fromBitsLSB w bits)[i] = bits.getD i false := by
  rw [← BitVec.getLsbD_eq_getElem, getLsbD_fromBitsLSB, decide_eq_true h, Bool.true_and]

/-- A byte is the value of its own bits (R6). -/
theorem fromBitsLSB_bits_byte (b : Byte) : fromBitsLSB 8 [b[0], b[1], b[2], b[3], b[4], b[5], b[6], b[7]] = b := by
  apply BitVec.eq_of_getElem_eq
  intro i hi
  rw [getElem_fromBitsLSB]
  interval_cases i <;> rfl

/-- A symbol is the value of its own bits (R6). -/
theorem fromBitsLSB_bits_sextet (g : Sextet) : fromBitsLSB 6 [g[0], g[1], g[2], g[3], g[4], g[5]] = g := by
  apply BitVec.eq_of_getElem_eq
  intro i hi
  rw [getElem_fromBitsLSB]
  interval_cases i <;> rfl

/-- REPACK.DEC gives back the bytes whose symbols REPACK.ENC made: R60's bit lists, of R70's, are the bytes' own bits
(R64). -/
theorem repackBytes_repackSymbol (b0 b1 b2 : Byte) :
    repackByte0 (repackSymbol b0 b1 b2 0) (repackSymbol b0 b1 b2 1) = b0 ∧
    repackByte1 (repackSymbol b0 b1 b2 1) (repackSymbol b0 b1 b2 2) = b1 ∧
    repackByte2 (repackSymbol b0 b1 b2 2) (repackSymbol b0 b1 b2 3) = b2 := by
  obtain ⟨h0, h1, h2, h3⟩ := repackSymbol_eq_bits b0 b1 b2
  rw [h0, h1, h2, h3]
  simp only [repackByte0, repackByte1, repackByte2, getElem_fromBitsLSB, List.getD_cons_zero, List.getD_cons_succ,
    fromBitsLSB_bits_byte, and_self]

/-- REPACK.ENC gives back the symbols whose bytes REPACK.DEC made: R70's bit lists, of R60's, are the symbols' own bits
(R64). -/
theorem repackSymbol_repackBytes (g0 g1 g2 g3 : Sextet) :
    let symbol := repackSymbol (repackByte0 g0 g1) (repackByte1 g1 g2) (repackByte2 g2 g3)
    symbol 0 = g0 ∧ symbol 1 = g1 ∧ symbol 2 = g2 ∧ symbol 3 = g3 := by
  obtain ⟨h0, h1, h2, h3⟩ := repackSymbol_eq_bits (repackByte0 g0 g1) (repackByte1 g1 g2) (repackByte2 g2 g3)
  simp only [h0, h1, h2, h3]
  simp only [repackByte0, repackByte1, repackByte2, getElem_fromBitsLSB, List.getD_cons_zero, List.getD_cons_succ,
    fromBitsLSB_bits_sextet, and_self]

theorem transact_repackDec (din : Lanes) :
    transact 0b10#2 din = repackDecResult (lane6 din 0) (lane6 din 1) (lane6 din 2) (lane6 din 3) := rfl

theorem transact_repackEnc (din : Lanes) :
    transact 0b11#2 din = repackEncResult (lane8 din 0) (lane8 din 1) (lane8 din 2) := rfl

/-- REPACK.ENC undoes REPACK.DEC (R64). -/
theorem transact_repackEnc_of_repackDec {x d : Lanes} (h : transact 0b10#2 x = .ok d) :
    transact 0b11#2 d = .ok x := by
  obtain ⟨⟩ := transact_repackDec x ▸ h
  obtain ⟨hb0, hb1, hb2⟩ := lane8_pack8 (repackByte0 (lane6 x 0) (lane6 x 1)) (repackByte1 (lane6 x 1) (lane6 x 2))
    (repackByte2 (lane6 x 2) (lane6 x 3))
  obtain ⟨hs0, hs1, hs2, hs3⟩ := repackSymbol_repackBytes (lane6 x 0) (lane6 x 1) (lane6 x 2) (lane6 x 3)
  rw [transact_repackEnc, hb0, hb1, hb2, repackEncResult, hs0, hs1, hs2, hs3, pack6_lane6]

/-- REPACK.DEC undoes REPACK.ENC (R64). -/
theorem transact_repackDec_of_repackEnc {x d : Lanes} (h : transact 0b11#2 x = .ok d) :
    transact 0b10#2 d = .ok x := by
  obtain ⟨⟩ := transact_repackEnc x ▸ h
  obtain ⟨hs0, hs1, hs2, hs3⟩ := lane6_pack6 (repackSymbol (lane8 x 0) (lane8 x 1) (lane8 x 2) 0)
    (repackSymbol (lane8 x 0) (lane8 x 1) (lane8 x 2) 1) (repackSymbol (lane8 x 0) (lane8 x 1) (lane8 x 2) 2)
    (repackSymbol (lane8 x 0) (lane8 x 1) (lane8 x 2) 3)
  obtain ⟨hb0, hb1, hb2⟩ := repackBytes_repackSymbol (lane8 x 0) (lane8 x 1) (lane8 x 2)
  rw [transact_repackDec, hs0, hs1, hs2, hs3, repackDecResult, hb0, hb1, hb2, pack8_lane8]

/-- A repacker's result determines its operand: the other repacker gives it back (R64). -/
theorem transact_repack_injective {op : BitVec 2} (hop : op = 0b10#2 ∨ op = 0b11#2) {x y : Lanes}
    (h : transact op x = transact op y) : x = y := by
  obtain ⟨d, hd⟩ := transact_repack_ok hop x
  have same : Result.ok x = .ok y := by
    rcases hop with rfl | rfl
    · rw [← transact_repackEnc_of_repackDec hd, ← transact_repackEnc_of_repackDec (h ▸ hd)]
    · rw [← transact_repackDec_of_repackEnc hd, ← transact_repackDec_of_repackEnc (h ▸ hd)]
  exact Result.ok.inj same

/-- A lookup reads lane 0 of `din` alone (R33). -/
theorem transact_lookup_congr {op : BitVec 2} (hop : op = 0b00#2 ∨ op = 0b01#2) {x y : Lanes}
    (h : lane8 x 0 = lane8 y 0) : transact op x = transact op y := by
  rcases hop with rfl | rfl
  · exact congrArg lookupDecResult h
  · exact congrArg lookupEncResult h

/-- Settles O26: the lookups' operand is lane 0, and the repackers are injective. -/
theorem lookupsIgnoreHighOperandBits : Obligations.LookupsIgnoreHighOperandBits :=
  ⟨fun _ _ _ hop h => transact_lookup_congr hop h, fun _ _ _ hop h => transact_repack_injective hop h⟩

end Sys2Proof.Machine
end

section
/-! ### The pseudo-instructions of R38 -/

namespace Sys2Proof.Machine

/-- Issuing an instruction's word gives the instruction's result (R7, R30). -/
@[simp] theorem issue_encode (i : Instr) : issue (encode i) = instrResult i :=
  congrArg instrResult (decode_encode i)

@[simp] theorem lane6_setWidth (v : Sextet) : lane6 (v.setWidth 24) 0 = v := by
  apply BitVec.eq_of_toNat_eq
  simpa [lane6] using v.isLt

/-- The classes of R40 are disjoint, so the counter of R42 is 1 exactly on the codes of the table. -/
theorem decCount_eq (c : Byte) : decCount c = if inAlphabet c then 1 else 0 := by
  grind [decCount, indAZ, indLowAZ, ind09, indPlus, indSlash, indPad, b01, inAlphabet, decTable]

/-- The sum of R41 has one term that is not 0: that of the character's class. -/
theorem decValue_eq (c : Byte) :
    decValue c = ((if 65 ≤ c.toNat ∧ c.toNat ≤ 90 then c.toNat - 65
      else if 97 ≤ c.toNat ∧ c.toNat ≤ 122 then c.toNat - 71
      else if 48 ≤ c.toNat ∧ c.toNat ≤ 57 then c.toNat + 4
      else if c.toNat = 43 then 62 else if c.toNat = 47 then 63 else 0 : Nat) : Int) := by
  simp only [decValue, indAZ, indLowAZ, ind09, indPlus, indSlash, indPad, b01, Bool.and_eq_true, decide_eq_true_eq,
    beq_iff_eq, ite_mul, one_mul, zero_mul, Nat.cast_ite]
  omega

/-- On the codes of the table of R46, R41's sum is the table's symbol. -/
theorem ofInt_decValue {c : Byte} {v : Sextet} (h : decTable c = some v) : BitVec.ofInt 6 (decValue c) = v := by
  rw [decValue_eq, BitVec.ofInt_natCast]
  grind [decTable]

/-- LOOKUP.DEC is the table of R46, and ALPHABET outside it (R43). -/
theorem lookupDecResult_eq_decTable (c : Byte) :
    lookupDecResult c = (decTable c).elim (.fault .alphabet) (fun v => .ok (v.setWidth 24)) := by
  cases h : decTable c with
  | none => simp [lookupDecResult, decCount_eq, inAlphabet, h]
  | some v => simp [lookupDecResult, decCount_eq, inAlphabet, h, ofInt_decValue h]

/-- A lookup of the host gives the table's symbol, or the fault at its index (R46, R81, R84). -/
theorem lookupChar_eq (index : Nat) (c : Byte) :
    lookupChar index c = (decTable c).elim (.error (index, .alphabet)) .ok := by
  unfold lookupChar
  rw [issue_encode, instrResult, lookupDecResult_eq_decTable]
  cases decTable c <;> simp

/-- Four characters with symbols: the block is REPACK.DEC of the symbols (R38). -/
theorem decodeBlockAt_of_some (index : Nat) {c0 c1 c2 c3 : Byte} {s0 s1 s2 s3 : Sextet} (h0 : decTable c0 = some s0)
    (h1 : decTable c1 = some s1) (h2 : decTable c2 = some s2) (h3 : decTable c3 = some s3) :
    decodeBlockAt index c0 c1 c2 c3 =
      .ok (pack8 (repackByte0 s0 s1) (repackByte1 s1 s2) (repackByte2 s2 s3)) := by
  simp [decodeBlockAt, lookupChar_eq, h0, h1, h2, h3, instrResult, repackDecResult, bind, Except.bind]

/-- A character without a symbol: the block ends with ALPHABET (R38). -/
theorem decodeBlock_of_none {c0 c1 c2 c3 : Byte}
    (h : decTable c0 = none ∨ decTable c1 = none ∨ decTable c2 = none ∨ decTable c3 = none) :
    decodeBlock c0 c1 c2 c3 = .fault .alphabet := by
  unfold decodeBlock decodeBlockAt
  simp only [lookupChar_eq, bind, Except.bind]
  cases h0 : decTable c0 with
  | none => rfl
  | some s0 =>
  cases h1 : decTable c1 with
  | none => rfl
  | some s1 =>
  cases h2 : decTable c2 with
  | none => rfl
  | some s2 =>
  cases h3 : decTable c3 with
  | none => rfl
  | some s3 => simp [h0, h1, h2, h3] at h

/-- Settles O37: with four symbols the expansion reaches REPACK.DEC, and a character without one ends it before. -/
theorem decodeBlockExpansion : Obligations.DecodeBlockExpansion := by
  intro c0 c1 c2 c3
  refine ⟨fun s0 s1 s2 s3 h0 h1 h2 h3 => ?_, decodeBlock_of_none⟩
  rw [decodeBlock, decodeBlockAt_of_some 0 h0 h1 h2 h3, issue_encode]
  rfl

/-- The character of a symbol (R56). -/
def symbolChar (s : Sextet) : Byte := (encTable (s.setWidth 8)).getD 0#8

/-- Every symbol has a character in the table of R56. -/
theorem encTable_symbol (s : Sextet) : encTable (s.setWidth 8) = some (symbolChar s) := by
  have hs : (s.setWidth 8).toNat ≤ 63 := by simp; omega
  rw [symbolChar, encTable_eq_encAscii, if_pos hs]
  rfl

/-- The table of R46 gives a symbol's character that symbol (R56). -/
theorem decTable_symbolChar : ∀ s : Sextet, decTable (symbolChar s) = some s := by decide

/-- LOOKUP.ENC never faults on a symbol (R54): the lookups of a list of symbols give their characters. -/
theorem lookupText_eq_map (syms : List Sextet) : lookupText syms = .ok (syms.map symbolChar) := by
  induction syms with
  | nil => rfl
  | cons s syms ih =>
    simp [lookupText, instrResult, lookupEncResult_eq_encTable, encTable_symbol, ih]

theorem repackBlock_eq (b0 b1 b2 : Byte) :
    repackBlock b0 b1 b2 = .ok [repackSymbol b0 b1 b2 0, repackSymbol b0 b1 b2 1, repackSymbol b0 b1 b2 2,
      repackSymbol b0 b1 b2 3] := by
  simp [repackBlock, instrResult, repackEncResult, lane6_pack6]

/-- ENCODE.BLOCK gives the characters of REPACK.ENC's four symbols (R38). -/
theorem encodeBlock_eq (b0 b1 b2 : Byte) :
    encodeBlock b0 b1 b2 = .ok [symbolChar (repackSymbol b0 b1 b2 0), symbolChar (repackSymbol b0 b1 b2 1),
      symbolChar (repackSymbol b0 b1 b2 2), symbolChar (repackSymbol b0 b1 b2 3)] := by
  simp [encodeBlock, repackBlock_eq, lookupText_eq_map, bind, Except.bind]

/-- DECODE.BLOCK of the characters of REPACK.ENC's symbols gives the bytes back (R56, R64). -/
theorem decodeBlockAt_symbolChar (index : Nat) (b0 b1 b2 : Byte) :
    decodeBlockAt index (symbolChar (repackSymbol b0 b1 b2 0)) (symbolChar (repackSymbol b0 b1 b2 1))
      (symbolChar (repackSymbol b0 b1 b2 2)) (symbolChar (repackSymbol b0 b1 b2 3)) = .ok (pack8 b0 b1 b2) := by
  obtain ⟨h0, h1, h2⟩ := repackBytes_repackSymbol b0 b1 b2
  rw [decodeBlockAt_of_some index (decTable_symbolChar _) (decTable_symbolChar _) (decTable_symbolChar _)
    (decTable_symbolChar _), h0, h1, h2]

/-- Settles O38: the lookups and the repackers are each other's inverses. -/
theorem encodeBlockDecodesBack : Obligations.EncodeBlockDecodesBack := by
  intro b0 b1 b2
  exact ⟨_, _, _, _, encodeBlock_eq b0 b1 b2, by rw [decodeBlock, decodeBlockAt_symbolChar]⟩

end Sys2Proof.Machine
end

section
/-! ### LOOKUP.DEC as the table of R46 -/

namespace Sys2Proof.Machine

/-- On a character of the table, LOOKUP.DEC drives its symbol (R43). -/
theorem exec_lookupDec_of_some {c : Byte} {v : Sextet} (h : decTable c = some v) (s : State) :
    exec (.lookupDec c) s = .next (s.drive (v.setWidth 24)) := by
  simp [exec_eq_complete, instrResult, lookupDecResult_eq_decTable, h]

/-- On a character that the table does not list, LOOKUP.DEC faults (R43, R46). -/
theorem exec_lookupDec_of_none {c : Byte} (h : decTable c = none) (s : State) :
    exec (.lookupDec c) s = .fault (.block .alphabet) := by
  simp [exec_eq_complete, instrResult, lookupDecResult_eq_decTable, h]

theorem exec_lookupDec_eq_fault_iff (c : Byte) (s : State) :
    exec (.lookupDec c) s = .fault (.block .alphabet) ↔ decTable c = none := by
  cases h : decTable c with
  | none => simp [exec_lookupDec_of_none h]
  | some v => simp [exec_lookupDec_of_some h]

/-- The table lists the characters of the six classes of R40, and no other. -/
theorem decTable_eq_none_iff (c : Byte) :
    decTable c = none ↔
      ¬(65 ≤ c.toNat ∧ c.toNat ≤ 90 ∨ 97 ≤ c.toNat ∧ c.toNat ≤ 122 ∨ 48 ≤ c.toNat ∧ c.toNat ≤ 57 ∨
        c.toNat = 43 ∨ c.toNat = 47 ∨ c.toNat = 61) := by
  unfold decTable
  split_ifs <;> simp <;> omega

theorem decCount_eq_one_iff (c : Byte) : decCount c = 1 ↔ decTable c ≠ none := by
  simp [decCount_eq, inAlphabet, Option.isSome_iff_ne_none]

/-- With LOOKUP.DEC's code on `op`, the ports present a lookup of `din[7:0]` (R31, R32). -/
theorem instr_of_op_lookupDec {s : State} (h : s.op = Op.lookupDec.bits) : s.instr = .lookupDec (lane8 s.din 0) := by
  simp [State.instr, decodePorts, h]

theorem decTable_padChar : decTable padChar = decTable 65#8 := by decide

/-- Settles O8, by the table's form of LOOKUP.DEC. -/
theorem lookupDecCompletes : Obligations.LookupDecCompletes :=
  fun _ _ s h => exec_lookupDec_of_some h s

/-- Settles O9: the held step is the LOOKUP.DEC of lane 0. -/
theorem lookupDecTransaction : Obligations.LookupDecTransaction := by
  intro s hhold hop
  rw [step_of_hold hhold, instr_of_op_lookupDec hop]
  exact ⟨fun _ h => exec_lookupDec_of_some h s, fun h => exec_lookupDec_of_none h s⟩

/-- Settles O10: the counter, the fault and the six classes all say whether the table lists the character. -/
theorem lookupDecFaultsExactlyOutsideAlphabet : Obligations.LookupDecFaultsExactlyOutsideAlphabet := by
  intro c s
  refine ⟨?_, ?_, ?_⟩
  · rw [decCount_eq]
    cases inAlphabet c <;> simp
  · rw [exec_lookupDec_eq_fault_iff, Ne, decCount_eq_one_iff, not_not]
    exact id
  · rw [exec_lookupDec_eq_fault_iff, decTable_eq_none_iff]

/-- Settles O11: the table gives '=' the symbol 0 of 'A'. -/
theorem padCharacterReadsAsA : Obligations.PadCharacterReadsAsA := by
  intro s
  have hA : decTable 65#8 = some 0#6 := by decide
  rw [exec_lookupDec_of_some (decTable_padChar.trans hA), exec_lookupDec_of_some hA]
  exact ⟨rfl, rfl⟩

end Sys2Proof.Machine
end

section
/-! ### decode reads a character only through the table of R46 -/

namespace Sys2Proof.Machine

variable {f : Byte → Byte} (hf : ∀ c, decTable (f c) = decTable c)
include hf

theorem decodeBlockAt_congr_decTable (index : Nat) (c0 c1 c2 c3 : Byte) :
    decodeBlockAt index (f c0) (f c1) (f c2) (f c3) = decodeBlockAt index c0 c1 c2 c3 := by
  simp only [decodeBlockAt, lookupChar_eq, hf]

theorem decodeBlocks_map_of_decTable : ∀ (index : Nat) (chars : List Byte),
    decodeBlocks index (chars.map f) = decodeBlocks index chars
  | _, [] | _, [_] | _, [_, _] | _, [_, _, _] => rfl
  | index, c0 :: c1 :: c2 :: c3 :: rest => by
    simp only [List.map_cons, decodeBlocks, decodeBlockAt_congr_decTable hf,
      decodeBlocks_map_of_decTable (index + 4) rest]

theorem hostDecode_map_of_decTable (chars : List Byte) (declared : Nat) :
    hostDecode (chars.map f) declared = hostDecode chars declared := by
  simp only [hostDecode, List.length_map, decodeBlocks_map_of_decTable hf]

end Sys2Proof.Machine
end

section
/-! ### '=' and 'A' in decode (R44) -/

namespace Sys2Proof.Machine

/-- Settles O44: the table gives '=' and 'A' one symbol, and decode sees a character through the table alone. -/
theorem decodeCannotTellPadFromA : Obligations.DecodeCannotTellPadFromA := by
  have same_symbol (c : Byte) : decTable (if c = padChar then 65#8 else c) = decTable c := by
    split
    next h => rw [h, decTable_padChar]
    next => rfl
  exact hostDecode_map_of_decTable same_symbol

end Sys2Proof.Machine
end

section
/-! ### LOOKUP.ENC as the table of R56 -/

namespace Sys2Proof.Machine

/-- The table of R56 ends at 63. -/
theorem encTable_eq_none_iff (i : Byte) : encTable i = none ↔ 64 ≤ i.toNat := by
  rw [encTable_eq_encAscii]
  split <;> simp <;> omega

theorem exists_encTable_eq_some {i : Byte} (h : i.toNat ≤ 63) : ∃ a, encTable i = some a := by
  rw [encTable_eq_encAscii, if_pos h]
  exact ⟨_, rfl⟩

/-- On an index of the table, LOOKUP.ENC has the table's character as its result (R53). -/
theorem lookupEncResult_of_some {i a : Byte} (h : encTable i = some a) : lookupEncResult i = .ok (a.setWidth 24) := by
  simp [lookupEncResult_eq_encTable, h]

/-- On an index of the table, LOOKUP.ENC drives its character (R53). -/
theorem exec_lookupEnc_of_some {i a : Byte} (h : encTable i = some a) (s : State) :
    exec (.lookupEnc i) s = .next (s.drive (a.setWidth 24)) := by
  simp [exec_eq_complete, instrResult, lookupEncResult_of_some h]

/-- On an index past the table's end, LOOKUP.ENC faults (R52). -/
theorem exec_lookupEnc_of_none {i : Byte} (h : encTable i = none) (s : State) :
    exec (.lookupEnc i) s = .fault (.block .tableIndex) := by
  simp [exec_eq_complete, instrResult, lookupEncResult_eq_encTable, h]

theorem exec_lookupEnc_eq_fault_iff (i : Byte) (s : State) :
    exec (.lookupEnc i) s = .fault (.block .tableIndex) ↔ 64 ≤ i.toNat := by
  rw [← encTable_eq_none_iff]
  cases h : encTable i with
  | none => simp [exec_lookupEnc_of_none h]
  | some a => simp [exec_lookupEnc_of_some h]

/-- With LOOKUP.ENC's code on `op`, the ports present a lookup of `din[7:0]` (R31, R32). -/
theorem instr_of_op_lookupEnc {s : State} (h : s.op = Op.lookupEnc.bits) : s.instr = .lookupEnc (lane8 s.din 0) := by
  simp [State.instr, decodePorts, h]

/-- Settles O12, by the table's form of LOOKUP.ENC. -/
theorem lookupEncCompletes : Obligations.LookupEncCompletes :=
  fun _ _ s h => exec_lookupEnc_of_some h s

/-- Settles O13: the held step is the LOOKUP.ENC of lane 0. -/
theorem lookupEncTransaction : Obligations.LookupEncTransaction := by
  intro s hhold hop
  rw [step_of_hold hhold, instr_of_op_lookupEnc hop]
  constructor
  · intro hle
    obtain ⟨a, ha⟩ := exists_encTable_eq_some hle
    exact ⟨a, ha, exec_lookupEnc_of_some ha s⟩
  · exact (exec_lookupEnc_eq_fault_iff _ s).mpr

/-- Settles O14: the counter is 1 up to 63, and LOOKUP.ENC faults from 64 on. -/
theorem lookupEncFaultsExactlyAbove63 : Obligations.LookupEncFaultsExactlyAbove63 := by
  intro i s
  rw [exec_lookupEnc_eq_fault_iff, encCount_eq]
  refine ⟨fun h => if_pos h, fun h => if_neg (by omega), fun h => ?_, Iff.rfl⟩
  by_contra hlt
  exact h (if_pos (by omega))

end Sys2Proof.Machine
end

section
/-! ### The two lookups undo each other (R56) -/

namespace Sys2Proof.Machine

/-- An index up to 63 is a symbol. -/
theorem setWidth_setWidth_of_le_63 {i : Byte} (h : i.toNat ≤ 63) : (i.setWidth 6).setWidth 8 = i := by
  apply BitVec.eq_of_toNat_eq
  simp
  omega

/-- A symbol on a port, read as lane 0's byte, is the symbol zero-extended. -/
theorem lane8_setWidth_sextet (v : Sextet) : lane8 (v.setWidth 24) 0 = v.setWidth 8 := by
  apply BitVec.eq_of_getElem_eq
  intro j hj
  simp [getElem_lane8, hj.trans (show 8 < 24 by decide)]

/-- Of the codes with a symbol, '=' alone is not its symbol's character: it shares the symbol of 'A' (R44, R56). -/
theorem symbolChar_of_decTable {c : Byte} {v : Sextet} (h : decTable c = some v) (hpad : c ≠ padChar) :
    symbolChar v = c := by
  have listed : ∀ c : Byte, c ≠ padChar → ∀ v ∈ decTable c, symbolChar v = c := by decide
  exact listed c hpad v h

@[simp] theorem lookupEncResult_symbol (v : Sextet) :
    lookupEncResult (v.setWidth 8) = .ok ((symbolChar v).setWidth 24) :=
  lookupEncResult_of_some (encTable_symbol v)

/-- On a character of the table, LOOKUP.DEC has the table's symbol as its result (R43). -/
theorem lookupDecResult_of_some {c : Byte} {v : Sextet} (h : decTable c = some v) :
    lookupDecResult c = .ok (v.setWidth 24) := by
  simp [lookupDecResult_eq_decTable, h]

/-- Settles O15: both lookups go through the symbol's character. -/
theorem lookupsAreInverse : Obligations.LookupsAreInverse := by
  simp only [Obligations.LookupsAreInverse, issue_encode, instrResult]
  constructor
  · intro i hi
    obtain ⟨v, rfl⟩ : ∃ v : Sextet, v.setWidth 8 = i := ⟨_, setWidth_setWidth_of_le_63 hi⟩
    refine ⟨_, lookupEncResult_symbol v, ?_⟩
    rw [lane8_setWidth, lookupDecResult_of_some (decTable_symbolChar v)]
    simp
  · intro c hc hpad
    obtain ⟨v, hv⟩ := Option.isSome_iff_exists.mp hc
    refine ⟨_, lookupDecResult_of_some hv, ?_⟩
    rw [lane8_setWidth_sextet, lookupEncResult_symbol, symbolChar_of_decTable hv hpad]

end Sys2Proof.Machine
end

section
/-! ### No TABLE_INDEX fault in encode (R54, R86) -/

namespace Sys2Proof.Machine

/-- Settles O21: a lane of REPACK.ENC's result is a symbol, and every symbol has a character. -/
theorem repackedSymbolsNeverFault : Obligations.RepackedSymbolsNeverFault := by
  intro b0 b1 b2 k _
  simp only [issue_encode]
  exact ⟨_, _, rfl, lookupEncResult_symbol _⟩

/-- Encode's first loop turns to the second, or presents a REPACK.ENC (R74, R85). -/
theorem RepackRun.move_cases (r : RepackRun) :
    (∃ t, r.move = .turn t) ∨ ∃ b0 b1 b2, r.move = .issue (encode (.repackEnc b0 b1 b2)) := by
  unfold RepackRun.move
  split
  next => exact .inl ⟨_, rfl⟩
  all_goals exact .inr ⟨_, _, _, rfl⟩

/-- Encode's second loop returns, or presents the LOOKUP.ENC of a symbol (R85, R86). -/
theorem LookupRun.move_cases (r : LookupRun) :
    (∃ t, r.move = .turn t) ∨ ∃ v : Sextet, r.move = .issue (encode (.lookupEnc (v.setWidth 8))) := by
  unfold LookupRun.move
  split
  next => exact .inl ⟨_, rfl⟩
  next v _ _ => exact .inr ⟨v, rfl⟩

/-- Presenting an instruction that has a data result never stops the machine (R16). -/
theorem step_next_of_issue_encode {s : State} {i : Instr} {d : Lanes} (hm : s.task.move = .issue (encode i))
    (hr : instrResult i = .ok d) : ∃ t, step s = .next t :=
  ⟨_, step_of_issue_ok hm (by rwa [decode_encode])⟩

/-- Settles O51: encode presents REPACK.ENC, and LOOKUP.ENC of symbols, which both always have a data result. -/
theorem encodeEvaluationNeverFaults : Obligations.EncodeEvaluationNeverFaults := by
  rintro s (⟨bytes, hs⟩ | ⟨r, hs⟩ | ⟨r, hs⟩)
  · exact ⟨_, step_of_turn (by rw [hs]; rfl)⟩
  · have hmove : s.task.move = r.move := by rw [hs]; rfl
    rcases r.move_cases with ⟨t, ht⟩ | ⟨b0, b1, b2, hi⟩
    · exact ⟨_, step_of_turn (hmove.trans ht)⟩
    · exact step_next_of_issue_encode (hmove.trans hi) rfl
  · have hmove : s.task.move = r.move := by rw [hs]; rfl
    rcases r.move_cases with ⟨t, ht⟩ | ⟨v, hi⟩
    · exact ⟨_, step_of_turn (hmove.trans ht)⟩
    · exact step_next_of_issue_encode (hmove.trans hi) (lookupEncResult_symbol v)

end Sys2Proof.Machine
end

section
/-! ### REPACK.DEC: its value formulas and its wiring (R60, R61, R64) -/

namespace Sys2Proof.Machine

/-- R60's bit list of `Byte0` is R61's formula for it. -/
theorem repackByte0_eq (g0 g1 : Sextet) : repackByte0 g0 g1 = (g0.setWidth 8 <<< 2) ||| (g1.setWidth 8 >>> 4) := by
  apply BitVec.eq_of_getElem_eq
  intro i hi
  rw [repackByte0, getElem_fromBitsLSB]
  interval_cases i <;> simp

/-- R60's bit list of `Byte1` is R61's formula for it. -/
theorem repackByte1_eq (g1 g2 : Sextet) :
    repackByte1 g1 g2 = ((g1.setWidth 8 &&& 0xF#8) <<< 4) ||| (g2.setWidth 8 >>> 2) := by
  apply BitVec.eq_of_getElem_eq
  intro i hi
  rw [repackByte1, getElem_fromBitsLSB]
  interval_cases i <;> simp

/-- R60's bit list of `Byte2` is R61's formula for it. -/
theorem repackByte2_eq (g2 g3 : Sextet) :
    repackByte2 g2 g3 = ((g2.setWidth 8 &&& 0x3#8) <<< 6) ||| g3.setWidth 8 := by
  apply BitVec.eq_of_getElem_eq
  intro i hi
  rw [repackByte2, getElem_fromBitsLSB]
  interval_cases i <;> simp

/-- Read first to last, the bytes of REPACK.DEC are the 24 bits of its symbols (R61). -/
theorem repackBytes_append (g0 g1 g2 g3 : Sextet) :
    (g0 ++ g1 ++ g2 ++ g3 : BitVec 24) = (repackByte0 g0 g1 ++ repackByte1 g1 g2 ++ repackByte2 g2 g3 : BitVec 24) := by
  apply BitVec.eq_of_getLsbD_eq
  intro i hi
  simp only [repackByte0, repackByte1, repackByte2, BitVec.getLsbD_append, getLsbD_fromBitsLSB]
  interval_cases i <;> simp

/-- Settles O16: REPACK.DEC drives the bytes of its bit lists, which are R61's formulas. -/
theorem repackDecCompletes : Obligations.RepackDecCompletes := by
  intro g0 g1 g2 g3 s
  simp only [← repackByte0_eq, ← repackByte1_eq, ← repackByte2_eq]
  exact ⟨exec_eq_complete _ s, repackBytes_append g0 g1 g2 g3⟩

/-- A bit position with the positions reversed inside its lane of width `w`: from LSB-first to MSB-first lanes. -/
def mirrorInLane (w : Nat) (k : Fin 24) : Fin 24 := Fin.ofNat 24 (w * (k / w) + (w - 1 - k % w))

theorem mirrorInLane_six_involutive : Function.Involutive (mirrorInLane 6) :=
  show ∀ k, mirrorInLane 6 (mirrorInLane 6 k) = k by decide

theorem mirrorInLane_eight_involutive : Function.Involutive (mirrorInLane 8) :=
  show ∀ k, mirrorInLane 8 (mirrorInLane 8 k) = k by decide

/-- Where REPACK.DEC sends each bit of `din`: to its place in the MSB-first stream of the four symbols, and from there
to `dout`, whose bytes cut the same stream (R23, R60). -/
def repackDecWiring : Equiv.Perm (Fin 24) :=
  mirrorInLane_six_involutive.toPerm.trans mirrorInLane_eight_involutive.toPerm

theorem repackDecWiring_apply (k : Fin 24) : repackDecWiring k = mirrorInLane 8 (mirrorInLane 6 k) := rfl

/-- REPACK.DEC moves each bit of `din` along its wire (R60, R64). -/
theorem getLsbD_repackDecWiring {x d : Lanes} (h : transact 0b10#2 x = .ok d) (k : Fin 24) :
    d.getLsbD (repackDecWiring k) = x.getLsbD k := by
  obtain ⟨⟩ := transact_repackDec x ▸ h
  rw [repackDecWiring_apply]
  simp only [getLsbD_pack8, repackByte0, repackByte1, repackByte2, getLsbD_fromBitsLSB, getElem_lane6]
  fin_cases k <;> simp [mirrorInLane]

/-- Wires that run side by side move a whole slice of `x`. -/
theorem extractLsb'_eq_of_wiring {x d : Lanes} {σ : Fin 24 → Fin 24} (h : ∀ k, d.getLsbD (σ k) = x.getLsbD k)
    {dst src len : Nat} (hσ : ∀ i : Fin len, ∃ k, k.val = src + i ∧ (σ k).val = dst + i) :
    d.extractLsb' dst len = x.extractLsb' src len := by
  apply BitVec.eq_of_getLsbD_eq
  intro i hi
  obtain ⟨k, hk, hσk⟩ := hσ ⟨i, hi⟩
  simpa [hk, hσk, hi] using h k

/-- Settles O17: the held step is the ports' REPACK.DEC, and each slice of R60 is a run of parallel wires. -/
theorem repackDecTransaction : Obligations.RepackDecTransaction := by
  intro s hhold hop
  obtain ⟨d, hd⟩ := transact_repack_ok (.inl rfl) s.din
  have hresult : instrResult s.instr = .ok d := by rw [instrResult_instr, hop, hd]
  refine ⟨d, ?_, ?_, ?_, ?_, ?_, ?_, ?_⟩
  · rw [step_of_hold hhold, exec_eq_complete, hresult]
    rfl
  all_goals exact extractLsb'_eq_of_wiring (getLsbD_repackDecWiring hd) (by decide)

/-- Settles O20: the wiring is the permutation, and each repacker undoes the other. -/
theorem repackersAreInverse : Obligations.RepackersAreInverse := by
  refine ⟨⟨repackDecWiring, fun x k => ?_⟩, fun x => ?_, fun x => ?_⟩
  · obtain ⟨d, hd⟩ := transact_repack_ok (.inl rfl) x
    exact ⟨d, hd, getLsbD_repackDecWiring hd k⟩
  · obtain ⟨d, hd⟩ := transact_repack_ok (.inl rfl) x
    exact ⟨d, hd, transact_repackEnc_of_repackDec hd⟩
  · obtain ⟨d, hd⟩ := transact_repack_ok (.inr rfl) x
    exact ⟨d, hd, transact_repackDec_of_repackEnc hd⟩

end Sys2Proof.Machine
end

section
/-! ### REPACK.ENC: its value formulas, its wiring and the zero-filled bytes (R70, R71, R74) -/

namespace Sys2Proof.Machine

/-- A value is `fromBitsLSB` of its own bits (R6). -/
theorem fromBitsLSB_eq {w : Nat} {bits : List Bool} {x : BitVec w} (h : ∀ i (hi : i < w), bits.getD i false = x[i]) :
    fromBitsLSB w bits = x :=
  BitVec.eq_of_getElem_eq fun i hi => (getElem_fromBitsLSB w bits i hi).trans (h i hi)

/-- The windows of a block's stream are the symbols of R71's value formulas. -/
theorem repackSymbol_eq_formulas (b0 b1 b2 : Byte) :
    repackSymbol b0 b1 b2 0 = (b0 >>> 2).setWidth 6 ∧
    repackSymbol b0 b1 b2 1 = (((b0 &&& 0x3#8) <<< 4) ||| (b1 >>> 4)).setWidth 6 ∧
    repackSymbol b0 b1 b2 2 = (((b1 &&& 0xF#8) <<< 2) ||| (b2 >>> 6)).setWidth 6 ∧
    repackSymbol b0 b1 b2 3 = (b2 &&& 0x3F#8).setWidth 6 := by
  obtain ⟨h0, h1, h2, h3⟩ := repackSymbol_eq_bits b0 b1 b2
  rw [h0, h1, h2, h3]
  refine ⟨?_, ?_, ?_, ?_⟩
  all_goals
    refine fromBitsLSB_eq fun i hi => ?_
    interval_cases i <;> simp

/-- Read first to last, the symbols of REPACK.ENC are the 24 bits of its bytes (R71): REPACK.DEC keeps the bits' order, and
makes those bytes of them again. -/
theorem repackSymbols_append (b0 b1 b2 : Byte) :
    (b0 ++ b1 ++ b2 : BitVec 24) = (repackSymbol b0 b1 b2 0 ++ repackSymbol b0 b1 b2 1 ++ repackSymbol b0 b1 b2 2 ++
      repackSymbol b0 b1 b2 3 : BitVec 24) := by
  obtain ⟨h0, h1, h2⟩ := repackBytes_repackSymbol b0 b1 b2
  rw [repackBytes_append, h0, h1, h2]

/-- Settles O18: REPACK.ENC drives the windows of its stream, which are R71's formulas. -/
theorem repackEncCompletes : Obligations.RepackEncCompletes := by
  intro b0 b1 b2 s
  obtain ⟨h0, h1, h2, h3⟩ := repackSymbol_eq_formulas b0 b1 b2
  simp only [← h0, ← h1, ← h2, ← h3]
  exact ⟨exec_eq_complete _ s, repackSymbols_append b0 b1 b2⟩

/-- Settles O19: REPACK.DEC undoes the held REPACK.ENC, so each slice of R70 is a run of REPACK.DEC's wires, read from
their far end. -/
theorem repackEncTransaction : Obligations.RepackEncTransaction := by
  intro s hhold hop
  obtain ⟨d, hd⟩ := transact_repack_ok (.inr rfl) s.din
  have hresult : instrResult s.instr = .ok d := by rw [instrResult_instr, hop, hd]
  have wires := getLsbD_repackDecWiring (transact_repackDec_of_repackEnc hd)
  refine ⟨d, ?_, ?_, ?_, ?_, ?_, ?_, ?_⟩
  · rw [step_of_hold hhold, exec_eq_complete, hresult]
    rfl
  all_goals exact (extractLsb'_eq_of_wiring wires (by decide)).symm

/-- Lane `k` of REPACK.ENC's result is its symbol `k` (R70, R72). -/
theorem lane6_of_repackEncResult {b0 b1 b2 : Byte} {d : Lanes} (h : repackEncResult b0 b1 b2 = .ok d) {k : Nat}
    (hk : k < 4) : lane6 d k = repackSymbol b0 b1 b2 k := by
  obtain ⟨⟩ := h
  obtain ⟨h0, h1, h2, h3⟩ := lane6_pack6 (repackSymbol b0 b1 b2 0) (repackSymbol b0 b1 b2 1) (repackSymbol b0 b1 b2 2)
    (repackSymbol b0 b1 b2 3)
  interval_cases k
  exacts [h0, h1, h2, h3]

/-- A value whose bit list begins with zeros has 0 in its low bits (R6). -/
theorem extractLsb'_fromBitsLSB_replicate (w len : Nat) (bits : List Bool) :
    (fromBitsLSB w (List.replicate len false ++ bits)).extractLsb' 0 len = 0#len := by
  apply BitVec.eq_of_getLsbD_eq
  intro i hi
  simp [getLsbD_fromBitsLSB, List.getElem?_append_left, hi]

/-- Settles O22: the bits that R70 takes from the missing bytes are the low bits of the last kept symbol. -/
theorem zeroFillGivesZeroBits : Obligations.ZeroFillGivesZeroBits := by
  simp only [Obligations.ZeroFillGivesZeroBits, issue_encode]
  constructor
  · intro b0
    obtain ⟨-, s1_bits, -, -⟩ := repackSymbol_eq_bits b0 0#8 0#8
    refine ⟨_, rfl, ?_⟩
    rw [lane6_of_repackEncResult rfl (by decide), s1_bits]
    exact extractLsb'_fromBitsLSB_replicate 6 4 [b0[0], b0[1]]
  · intro b0 b1
    obtain ⟨-, -, s2_bits, -⟩ := repackSymbol_eq_bits b0 b1 0#8
    refine ⟨_, rfl, ?_⟩
    rw [lane6_of_repackEncResult rfl (by decide), s2_bits]
    exact extractLsb'_fromBitsLSB_replicate 6 2 [b1[0], b1[1], b1[2], b1[3]]

end Sys2Proof.Machine
end

section
/-! ### Block repacking is stream repacking (R73) -/

namespace Sys2Proof.Machine

theorem symbolCount_add_three (n : Nat) : symbolCount (n + 3) = 4 + symbolCount n := by
  unfold symbolCount
  omega

theorem length_byteStream (bytes : List Byte) : (byteStream bytes).length = 8 * bytes.length := by
  simp [byteStream, bitsMSB, List.length_flatMap, Nat.mul_comm]

/-- The padded stream is cut into `m` whole windows (R73). -/
theorem length_padStream_byteStream (bytes : List Byte) :
    (padStream (byteStream bytes)).length = 6 * symbolCount bytes.length := by
  rw [padStream, List.length_append, List.length_replicate, length_byteStream, symbolCount]
  omega

/-- A window that lies in the first part of a stream does not see the rest. -/
theorem windowSymbol_append_left (front rest : List Bool) {k : Nat} (h : 6 * (k + 1) ≤ front.length) :
    windowSymbol (front ++ rest) k = windowSymbol front k := by
  have hdrop : 6 * k ≤ front.length := by omega
  have htake : 6 ≤ (front.drop (6 * k)).length := by rw [List.length_drop]; omega
  rw [windowSymbol, List.drop_append_of_le_length hdrop, List.take_append_of_le_length htake, windowSymbol]

/-- After `j` whole windows, the windows are those of the rest of the stream. -/
theorem windowSymbol_append_right {front : List Bool} (rest : List Bool) {j : Nat} (h : front.length = 6 * j) (k : Nat) :
    windowSymbol (front ++ rest) (j + k) = windowSymbol rest k := by
  rw [windowSymbol, Nat.mul_add, ← h, List.drop_length_add_append, windowSymbol]

/-- Whole windows in front do not change the padding (R73). -/
theorem padStream_append {front : List Bool} (rest : List Bool) {j : Nat} (h : front.length = 6 * j) :
    padStream (front ++ rest) = front ++ padStream rest := by
  simp only [padStream, List.length_append, h, Nat.mul_add_mod, List.append_assoc]

/-- A block in front of the input puts its own four symbols in front of the stream's (R73). -/
theorem streamSymbols_block (b0 b1 b2 : Byte) (rest : List Byte) :
    streamSymbols (b0 :: b1 :: b2 :: rest) = (List.range 4).map (repackSymbol b0 b1 b2) ++ streamSymbols rest := by
  have hlen : (byteStream [b0, b1, b2]).length = 6 * 4 := rfl
  have hstream : padStream (byteStream (b0 :: b1 :: b2 :: rest)) =
      byteStream [b0, b1, b2] ++ padStream (byteStream rest) := padStream_append _ hlen
  have hcount : symbolCount (b0 :: b1 :: b2 :: rest).length = 4 + symbolCount rest.length := symbolCount_add_three _
  rw [streamSymbols, hstream, hcount, List.range_add, List.map_append, List.map_map]
  refine congrArg₂ _ (List.map_congr_left fun k hk => windowSymbol_append_left _ _ ?_)
    (List.map_congr_left fun k _ => windowSymbol_append_right _ hlen k)
  have := List.mem_range.mp hk
  omega

/-- The source's zero bits are the first bits of the zero-filled bytes: the stream's symbols are the first `m` of the
zero-filled block (R73, R74). -/
theorem streamSymbols_of_zeroFill {bytes : List Byte} {b0 b1 b2 : Byte} {zeros : List Bool}
    (h : byteStream [b0, b1, b2] = padStream (byteStream bytes) ++ zeros) :
    streamSymbols bytes = ((List.range 4).map (repackSymbol b0 b1 b2)).take (symbolCount bytes.length) := by
  have hpad := length_padStream_byteStream bytes
  have hm : symbolCount bytes.length ≤ 4 := by
    have hlen := congrArg List.length h
    rw [length_byteStream, List.length_append, hpad] at hlen
    simp only [List.length_cons, List.length_nil] at hlen
    omega
  rw [← List.map_take, List.take_range, Nat.min_eq_left hm]
  refine List.map_congr_left fun k hk => ?_
  have hk : k < symbolCount bytes.length := List.mem_range.mp hk
  rw [repackSymbol, h, windowSymbol_append_left]
  omega

/-- The symbols of the input's blocks, one block after the other, 0 for a missing byte (R73, R74). -/
def blockSymbols : List Byte → List Sextet
  | [] => []
  | [b0] => (List.range 4).map (repackSymbol b0 0#8 0#8)
  | [b0, b1] => (List.range 4).map (repackSymbol b0 b1 0#8)
  | b0 :: b1 :: b2 :: rest => (List.range 4).map (repackSymbol b0 b1 b2) ++ blockSymbols rest

/-- Encode's block loop always ends with the blocks' symbols (R72, R85). -/
theorem encodeBlocks_eq (bytes : List Byte) : encodeBlocks bytes = .ok (blockSymbols bytes) := by
  induction bytes using blockSymbols.induct with
  | case1 => rfl
  | case2 b0 => exact repackBlock_eq b0 0#8 0#8
  | case3 b0 b1 => exact repackBlock_eq b0 b1 0#8
  | case4 b0 b1 b2 rest ih =>
    rw [encodeBlocks, repackBlock_eq, ih]
    rfl

/-- Four symbols a block (R73). -/
theorem length_blockSymbols (bytes : List Byte) : (blockSymbols bytes).length = 4 * ((bytes.length + 2) / 3) := by
  induction bytes using blockSymbols.induct with
  | case1 => rfl
  | case2 b0 => simp [blockSymbols]
  | case3 b0 b1 => simp [blockSymbols]
  | case4 b0 b1 b2 rest ih =>
    simp only [blockSymbols, List.length_append, List.length_map, List.length_range, ih, List.length_cons]
    omega

/-- The stream's symbols are the first `m` of the blocks' (R73). -/
theorem streamSymbols_eq_take (bytes : List Byte) :
    streamSymbols bytes = (blockSymbols bytes).take (symbolCount bytes.length) := by
  induction bytes using blockSymbols.induct with
  | case1 => rfl
  | case2 b0 =>
    have hfill : byteStream [b0, 0#8, 0#8] = padStream (byteStream [b0]) ++ List.replicate 12 false := by
      simp [padStream, byteStream, bitsMSB]
    exact streamSymbols_of_zeroFill hfill
  | case3 b0 b1 =>
    have hfill : byteStream [b0, b1, 0#8] = padStream (byteStream [b0, b1]) ++ List.replicate 6 false := by
      simp [padStream, byteStream, bitsMSB]
    exact streamSymbols_of_zeroFill hfill
  | case4 b0 b1 b2 rest ih =>
    have hcount : symbolCount (b0 :: b1 :: b2 :: rest).length = 4 + symbolCount rest.length := symbolCount_add_three _
    rw [streamSymbols_block, ih, hcount]
    exact (List.take_length_add_append _).symm

/-- Settles O46: encode's blocks give `blockSymbols`, and the stream's symbols are the first `m` of them. -/
theorem blockRepackingEqualsStreamRepacking : Obligations.BlockRepackingEqualsStreamRepacking := by
  intro bytes
  refine ⟨_, encodeBlocks_eq bytes, length_blockSymbols bytes, streamSymbols_eq_take bytes, ?_⟩
  rw [symbolCount]
  omega

end Sys2Proof.Machine
end

section
/-! ### The checks of a call of decode (R80, R83) -/

namespace Sys2Proof.Machine

theorem hostDecode_of_length {chars : List Byte} (h : chars.length % 4 ≠ 0) (declared : Nat) :
    hostDecode chars declared = .error .length := by
  simp [hostDecode, h]

theorem hostDecode_of_long {chars : List Byte} {declared : Nat} (h4 : chars.length % 4 = 0)
    (h : 3 * (chars.length / 4) < declared) : hostDecode chars declared = .refused := by
  simp [hostDecode, h4, h]

theorem step_decodeCall_of_length {s : State} {chars : List Byte} {declared : Nat}
    (hs : s.task = .decodeCall chars declared) (h : chars.length % 4 ≠ 0) : step s = .fault (.host .length) := by
  simp [step, hs, Task.move, decodeCallMove, h]

theorem step_decodeCall_of_long {s : State} {chars : List Byte} {declared : Nat}
    (hs : s.task = .decodeCall chars declared) (h4 : chars.length % 4 = 0) (h : 3 * (chars.length / 4) < declared) :
    step s = .refused .declaredLength := by
  simp [step, hs, Task.move, decodeCallMove, h4, h]

/-- A call with legal lengths begins its evaluation with empty buffers (R80, R83, R100). -/
theorem decodeCallMove_of_legal {chars : List Byte} {declared : Nat} (h4 : chars.length % 4 = 0)
    (h : declared ≤ 3 * (chars.length / 4)) :
    decodeCallMove chars declared = .turn (.decodeRun ⟨declared, 0, chars, [], []⟩) := by
  simp [decodeCallMove, h4, h]

/-- Settles O39: the length check is the first of decode and of the call's move. -/
theorem decodeChecksLengthFirst : Obligations.DecodeChecksLengthFirst :=
  fun _ _ declared h => ⟨hostDecode_of_length h declared, step_decodeCall_of_length rfl h⟩

/-- Settles O40: past the length check, the bound on the declared length is the second. -/
theorem decodeRefusesLongDeclaredLength : Obligations.DecodeRefusesLongDeclaredLength :=
  fun _ _ _ h4 h => ⟨hostDecode_of_long h4 h, step_decodeCall_of_long rfl h4 h⟩

end Sys2Proof.Machine
end

section
/-! ### decode character by character (R81, R82, R84) -/

namespace Sys2Proof.Machine

/-- The symbols of the characters from `index` on, or ALPHABET at the first that has none (R81, R84). -/
def lookupChars (index : Nat) : List Byte → Except HostError (List Sextet)
  | [] => .ok []
  | c :: cs =>
    match decTable c with
    | none => .error (.alphabet index)
    | some v => (lookupChars (index + 1) cs).map (v :: ·)

theorem lookupChars_cons_of_some {c : Byte} {v : Sextet} (h : decTable c = some v) (index : Nat) (cs : List Byte) :
    lookupChars index (c :: cs) = (lookupChars (index + 1) cs).map (v :: ·) := by
  simp [lookupChars, h]

theorem lookupChars_cons_of_none {c : Byte} (h : decTable c = none) (index : Nat) (cs : List Byte) :
    lookupChars index (c :: cs) = .error (.alphabet index) := by
  simp [lookupChars, h]

/-- The listing of R46 has every code of the alphabet at its symbol; past its end stands 0, the symbol of '='. -/
theorem decTable_of_inAlphabet : ∀ {c : Byte}, inAlphabet c = true → decTable c = some (charSymbol c) := by
  decide

theorem lookupChars_of_inAlphabet {chars : List Byte} (h : ∀ c ∈ chars, inAlphabet c = true) (index : Nat) :
    lookupChars index chars = .ok (chars.map charSymbol) := by
  induction chars generalizing index with
  | nil => rfl
  | cons c cs ih =>
    obtain ⟨hc, hcs⟩ := List.forall_mem_cons.mp h
    rw [lookupChars_cons_of_some (decTable_of_inAlphabet hc), ih hcs]
    rfl

/-- The lookups end at the first character outside the alphabet, and name its index (R84). -/
theorem lookupChars_of_first_invalid {before : List Byte} {c : Byte} (hbefore : ∀ x ∈ before, inAlphabet x = true)
    (hc : inAlphabet c = false) (index : Nat) (after : List Byte) :
    lookupChars index (before ++ c :: after) = .error (.alphabet (index + before.length)) := by
  induction before generalizing index with
  | nil => exact lookupChars_cons_of_none (by simpa [inAlphabet] using hc) index after
  | cons b bs ih =>
    obtain ⟨hb, hbs⟩ := List.forall_mem_cons.mp hbefore
    rw [List.cons_append, lookupChars_cons_of_some (decTable_of_inAlphabet hb), ih hbs, List.length_cons,
      Nat.add_assoc, Nat.add_comm 1]
    rfl

/-- The bytes of whole blocks of symbols, REPACK.DEC's three a block (R60). -/
def symbolsBytes : List Sextet → List Byte
  | g0 :: g1 :: g2 :: g3 :: rest => repackByte0 g0 g1 :: repackByte1 g1 g2 :: repackByte2 g2 g3 :: symbolsBytes rest
  | _ => []

/-- Three bytes a block (R81). -/
theorem length_symbolsBytes : ∀ syms : List Sextet, (symbolsBytes syms).length = 3 * (syms.length / 4)
  | [] | [_] | [_, _] | [_, _, _] => by simp [symbolsBytes]
  | g0 :: g1 :: g2 :: g3 :: rest => by
    simp only [symbolsBytes, List.length_cons, length_symbolsBytes rest]
    omega

/-- Decode's block loop is REPACK.DEC, block by block, of the lookups of all characters (R81, R84). -/
theorem decodeBlocks_eq_map : ∀ (index : Nat) (chars : List Byte), chars.length % 4 = 0 →
    decodeBlocks index chars = (lookupChars index chars).map symbolsBytes
  | _, [], _ => rfl
  | _, [_], h | _, [_, _], h | _, [_, _, _], h => by simp at h
  | index, c0 :: c1 :: c2 :: c3 :: rest, h => by
    have hrest : rest.length % 4 = 0 := by simpa [Nat.add_assoc] using h
    simp only [decodeBlocks, decodeBlockAt, lookupChar_eq, lookupChars, decodeBlocks_eq_map (index + 4) rest hrest]
    cases decTable c0 with
    | none => rfl
    | some s0 =>
    cases decTable c1 with
    | none => rfl
    | some s1 =>
    cases decTable c2 with
    | none => rfl
    | some s2 =>
    cases decTable c3 with
    | none => rfl
    | some s3 =>
      obtain ⟨h0, h1, h2⟩ := lane8_pack8 (repackByte0 s0 s1) (repackByte1 s1 s2) (repackByte2 s2 s3)
      cases lookupChars (index + 4) rest <;>
        simp [Except.map, bind, Except.bind, instrResult, repackDecResult, h0, h1, h2, symbolsBytes]

/-- What a decode evaluation under way comes to: the error of its next lookups, or the declared bytes of what is out,
waiting and still to come (R81, R82, R84). -/
def DecodeRun.result (r : DecodeRun) : Evaluation :=
  match lookupChars r.index r.todo with
  | .error e => .error e
  | .ok syms => .output ((r.out ++ symbolsBytes (r.syms ++ syms)).take r.declared)

theorem DecodeRun.result_of_error {r : DecodeRun} {e : HostError} (h : lookupChars r.index r.todo = .error e) :
    r.result = .error e := by
  simp [result, h]

theorem DecodeRun.result_of_ok {r : DecodeRun} {syms : List Sextet} (h : lookupChars r.index r.todo = .ok syms) :
    r.result = .output ((r.out ++ symbolsBytes (r.syms ++ syms)).take r.declared) := by
  simp [result, h]

/-- Past its checks decode comes to what its evaluation does from empty buffers (R80 to R84). -/
theorem hostDecode_of_legal {chars : List Byte} {declared : Nat} (h4 : chars.length % 4 = 0)
    (hL : declared ≤ 3 * (chars.length / 4)) :
    hostDecode chars declared = DecodeRun.result ⟨declared, 0, chars, [], []⟩ := by
  simp only [hostDecode, h4, Nat.not_lt.mpr hL, decodeBlocks_eq_map 0 chars h4, DecodeRun.result]
  cases lookupChars 0 chars <;> rfl

/-- Text over the alphabet decodes, '=' anywhere in it (R82, R89). -/
theorem hostDecode_of_inAlphabet {chars : List Byte} {declared : Nat} (h4 : chars.length % 4 = 0)
    (hL : declared ≤ 3 * (chars.length / 4)) (h : ∀ c ∈ chars, inAlphabet c = true) :
    hostDecode chars declared = .output ((symbolsBytes (chars.map charSymbol)).take declared) := by
  rw [hostDecode_of_legal h4 hL, DecodeRun.result_of_ok (lookupChars_of_inAlphabet h 0)]
  rfl

/-- Settles O41: the lookups end at the first invalid character. -/
theorem decodeReportsFirstInvalidCharacter : Obligations.DecodeReportsFirstInvalidCharacter := by
  intro before after c declared h4 hL hbefore hc
  rw [hostDecode_of_legal h4 hL, DecodeRun.result_of_error (lookupChars_of_first_invalid hbefore hc 0 after),
    Nat.zero_add]

/-- A list with an invalid character has a first one (R84). -/
theorem exists_first_invalid {chars : List Byte} (h : ∃ c ∈ chars, inAlphabet c = false) :
    ∃ before c after, chars = before ++ c :: after ∧ (∀ x ∈ before, inAlphabet x = true) ∧ inAlphabet c = false := by
  have hfind : (chars.find? (!inAlphabet ·)).isSome := by simpa using h
  obtain ⟨c, hc⟩ := Option.isSome_iff_exists.mp hfind
  obtain ⟨hinvalid, before, after, rfl, hbefore⟩ := List.find?_eq_some_iff_append.mp hc
  exact ⟨before, c, after, rfl, by simpa using hbefore, by simpa using hinvalid⟩

/-- For legal lengths, an invalid character makes decode end with ALPHABET (R84). -/
theorem hostDecode_of_invalid {chars : List Byte} {declared : Nat} (h4 : chars.length % 4 = 0)
    (hL : declared ≤ 3 * (chars.length / 4)) (h : ∃ c ∈ chars, inAlphabet c = false) :
    ∃ k, hostDecode chars declared = .error (.alphabet k) := by
  obtain ⟨before, c, after, rfl, hbefore, hc⟩ := exists_first_invalid h
  exact ⟨_, decodeReportsFirstInvalidCharacter before after c declared h4 hL hbefore hc⟩

/-- Decode gives an output only for legal lengths and text over the alphabet (R80, R83, R84). -/
theorem legal_of_hostDecode_output {chars out : List Byte} {declared : Nat}
    (h : hostDecode chars declared = .output out) :
    chars.length % 4 = 0 ∧ declared ≤ 3 * (chars.length / 4) ∧ ∀ c ∈ chars, inAlphabet c = true := by
  have h4 : chars.length % 4 = 0 := by
    by_contra h4
    simp [hostDecode_of_length h4] at h
  have hL : declared ≤ 3 * (chars.length / 4) := by
    by_contra hL
    simp [hostDecode_of_long h4 (Nat.lt_of_not_le hL)] at h
  refine ⟨h4, hL, ?_⟩
  by_contra hvalid
  obtain ⟨k, hk⟩ := hostDecode_of_invalid h4 hL (by simpa using hvalid)
  simp [hk] at h

/-- A block of four characters has three bytes, and the declared length keeps no more (R81, R83). -/
theorem length_take_symbolsBytes {chars : List Byte} {declared : Nat} (hL : declared ≤ 3 * (chars.length / 4)) :
    ((symbolsBytes (chars.map charSymbol)).take declared).length = declared := by
  simp [length_symbolsBytes, hL]

/-- Settles O42: the first `L` bytes of the blocks' are `L` bytes, since there are 3n/4. -/
theorem decodeAcceptsAnyPadding : Obligations.DecodeAcceptsAnyPadding :=
  fun _ _ h4 hL h => ⟨_, hostDecode_of_inAlphabet h4 hL h, length_take_symbolsBytes hL⟩

/-- Settles O43: an output means legal lengths and valid text, where both calls keep first bytes of the same blocks. -/
theorem decodeTruncates : Obligations.DecodeTruncates := by
  intro chars out long short hle h
  obtain ⟨h4, hL, hvalid⟩ := legal_of_hostDecode_output h
  obtain rfl : (symbolsBytes (chars.map charSymbol)).take long = out := by
    simpa [hostDecode_of_inAlphabet h4 hL hvalid] using h
  refine ⟨length_take_symbolsBytes hL, ?_⟩
  rw [hostDecode_of_inAlphabet h4 (hle.trans hL) hvalid, List.take_take, Nat.min_eq_left hle]

end Sys2Proof.Machine
end

section
/-! ### Runs from one task of the host to another, and how they end -/

namespace Sys2Proof.Machine

/-- From any state with task `a`, `n` steps lead to a state with task `b`, whatever stands on the ports. -/
def Task.reaches (n : Nat) (a b : Task) : Prop :=
  ∀ s : State, s.task = a →
    ∃ t : State, t.task = b ∧ ∀ k, Host.Core.run core (n + k) s = Host.Core.run core k t

/-- A run of the machine ended as an evaluation of the host does (R80 to R86, R91). -/
def Evaluation.endsRun : Evaluation → Outcome → Prop
  | .output out, o => ∃ t, o = .next t ∧ t.task = .returned out
  | .error e, o => o = .fault (.host e)
  | .refused, o => o = .refused .declaredLength

/-- From any state with task `a`, a run of `n` steps ends as the evaluation `e` does. -/
def Task.ends (n : Nat) (a : Task) (e : Evaluation) : Prop :=
  ∀ s : State, s.task = a → e.endsRun (Host.Core.run core n s)

namespace Task

variable {a b c : Task} {m n : Nat}

theorem reaches_refl (a : Task) : reaches 0 a a :=
  fun s hs => ⟨s, hs, fun k => by rw [Nat.zero_add]⟩

theorem reaches.trans (hab : reaches m a b) (hbc : reaches n b c) : reaches (m + n) a c := by
  intro s hs
  obtain ⟨t, ht, hrun⟩ := hab s hs
  obtain ⟨u, hu, hrun'⟩ := hbc t ht
  exact ⟨u, hu, fun k => by rw [Nat.add_assoc, hrun, hrun']⟩

/-- A run may be cut where it reaches a task. -/
theorem reaches.trans_ends {e : Evaluation} (hab : reaches m a b) (hb : ends n b e) : ends (m + n) a e := by
  intro s hs
  obtain ⟨t, ht, hrun⟩ := hab s hs
  exact hrun n ▸ hb t ht

theorem reaches_of_step (h : ∀ s : State, s.task = a → ∃ t, step s = .next t ∧ t.task = b) : reaches 1 a b := by
  intro s hs
  obtain ⟨t, hstep, ht⟩ := h s hs
  exact ⟨t, ht, fun k => by rw [Nat.add_comm, run_succ_of_next hstep]⟩

/-- A move of the host between transactions takes a step. -/
theorem reaches_of_turn (h : a.move = .turn b) : reaches 1 a b :=
  reaches_of_step fun _ hs => ⟨_, step_of_turn (hs ▸ h), rfl⟩

/-- A transaction with a data result takes a step, and the host absorbs the result (R87). -/
theorem reaches_of_issue_word {w : CmdWord} {d : Lanes} (h : a.move = .issue w) (hr : instrResult (decode w) = .ok d) :
    reaches 1 a (a.absorb d) :=
  reaches_of_step fun _ hs => ⟨_, step_of_issue_ok (hs ▸ h) hr, by rw [State.turnTo_task, hs]⟩

theorem reaches_of_issue {i : Instr} {d : Lanes} (h : a.move = .issue (encode i)) (hr : instrResult i = .ok d) :
    reaches 1 a (a.absorb d) :=
  reaches_of_issue_word h (by rwa [decode_encode])

/-- The return of an evaluation takes a step (R82, R86). -/
theorem ends_of_turn_returned {out : List Byte} (h : a.move = .turn (.returned out)) : ends 1 a (.output out) :=
  fun _ hs => ⟨_, run_succ_of_next (step_of_turn (hs ▸ h)) 0, rfl⟩

/-- A fault that aborts the evaluation ends the run, however many steps were asked for (R84, R93). -/
theorem ends_of_issue_fault {i : Instr} {code : FaultCode} {e : HostError} (h : a.move = .issue (encode i))
    (hr : instrResult i = .fault code) (he : a.abort code = .host e) (n : Nat) : ends (n + 1) a (.error e) := by
  intro s hs
  have hstep := step_of_issue_fault (s := s) (hs ▸ h) (by rwa [decode_encode])
  exact (run_succ_of_fault hstep n).trans (congrArg Host.Outcome.fault (hs ▸ he))

end Task

end Sys2Proof.Machine
end

section
/-! ### The machine computes decode (R80 to R84, R102) -/

namespace Sys2Proof.Machine

theorem lookupDecResult_of_none {c : Byte} (h : decTable c = none) : lookupDecResult c = .fault .alphabet := by
  simp [lookupDecResult_eq_decTable, h]

namespace DecodeRun

variable {declared index : Nat} {todo cs : List Byte} {c : Byte} {syms : List Sextet} {out : List Byte}

/-- With a block's symbols not complete, decode presents the next character's lookup (R81). -/
theorem move_of_char (h4 : syms.length ≠ 4) :
    (Task.decodeRun ⟨declared, index, c :: cs, syms, out⟩).move = .issue (encode (.lookupDec c)) := by
  simp only [Task.move, move]
  split
  next => simp at h4
  next heq =>
    obtain ⟨rfl, -⟩ := List.cons.inj heq
    rfl
  next heq => simp at heq

/-- A character's symbol joins those waiting (R81). -/
theorem reaches_lookup (h4 : syms.length ≠ 4) {v : Sextet} (hv : decTable c = some v) :
    Task.reaches 1 (.decodeRun ⟨declared, index, c :: cs, syms, out⟩)
      (.decodeRun ⟨declared, index + 1, cs, syms ++ [v], out⟩) := by
  have h := Task.reaches_of_issue (move_of_char (declared := declared) (index := index) (cs := cs) (out := out) h4)
    (lookupDecResult_of_some hv)
  simpa [Task.absorb, absorb_of_ne_four (r := ⟨declared, index, c :: cs, syms, out⟩) h4] using h

/-- A block's four symbols go out as its three bytes (R81). -/
theorem reaches_repack (s0 s1 s2 s3 : Sextet) :
    Task.reaches 1 (.decodeRun ⟨declared, index, todo, [s0, s1, s2, s3], out⟩)
      (.decodeRun ⟨declared, index, todo, [], out ++ symbolsBytes [s0, s1, s2, s3]⟩) := by
  obtain ⟨h0, h1, h2⟩ := lane8_pack8 (repackByte0 s0 s1) (repackByte1 s1 s2) (repackByte2 s2 s3)
  have h := Task.reaches_of_issue (a := .decodeRun ⟨declared, index, todo, [s0, s1, s2, s3], out⟩)
    (i := .repackDec s0 s1 s2 s3) rfl rfl
  simpa [Task.absorb, absorb, h0, h1, h2, symbolsBytes] using h

/-- A lookup does not change what the evaluation comes to. -/
theorem result_lookup {v : Sextet} (hv : decTable c = some v) :
    result ⟨declared, index + 1, cs, syms ++ [v], out⟩ = result ⟨declared, index, c :: cs, syms, out⟩ := by
  simp only [result, lookupChars_cons_of_some hv]
  cases lookupChars (index + 1) cs <;> simp [Except.map]

/-- A repacking does not change what the evaluation comes to. -/
theorem result_repack (s0 s1 s2 s3 : Sextet) :
    result ⟨declared, index, todo, [], out ++ symbolsBytes [s0, s1, s2, s3]⟩ =
      result ⟨declared, index, todo, [s0, s1, s2, s3], out⟩ := by
  simp [result, symbolsBytes]

/-- A decode evaluation whose characters fill whole blocks ends with its result: a step a character, one a block, and
the return. -/
theorem ends_result (declared index : Nat) (todo : List Byte) (syms : List Sextet) (out : List Byte)
    (hle : syms.length ≤ 4) (h4 : (syms.length + todo.length) % 4 = 0) :
    Task.ends (todo.length + (syms.length + todo.length) / 4 + 1) (.decodeRun ⟨declared, index, todo, syms, out⟩)
      (result ⟨declared, index, todo, syms, out⟩) := by
  by_cases hfour : syms.length = 4
  · obtain ⟨s0, s1, s2, s3, rfl⟩ := List.length_eq_four.mp hfour
    have rest := ends_result declared index todo [] (out ++ symbolsBytes [s0, s1, s2, s3]) (by simp)
      (by simpa using h4)
    have steps := (reaches_repack s0 s1 s2 s3).trans_ends rest
    rw [result_repack] at steps
    convert steps using 1
    simp only [List.length_cons, List.length_nil]
    omega
  · cases todo with
    | nil =>
      obtain rfl : syms = [] := List.length_eq_zero_iff.mp (by rw [List.length_nil] at h4; omega)
      have hresult : result ⟨declared, index, [], [], out⟩ = .output (out.take declared) := by
        simp [result, lookupChars, symbolsBytes]
      exact hresult ▸ Task.ends_of_turn_returned rfl
    | cons c cs =>
      cases hv : decTable c with
      | none =>
        rw [result_of_error (lookupChars_cons_of_none hv index cs)]
        exact Task.ends_of_issue_fault (move_of_char hfour) (lookupDecResult_of_none hv) rfl _
      | some v =>
        rw [List.length_cons] at h4
        have hlen : (syms ++ [v]).length = syms.length + 1 := List.length_append
        have rest := ends_result declared (index + 1) cs (syms ++ [v]) out (by omega) (by omega)
        have steps := (reaches_lookup hfour hv).trans_ends rest
        rw [result_lookup hv] at steps
        convert steps using 1
        simp only [List.length_cons, List.length_append, List.length_nil]
        omega
termination_by todo.length + todo.length + syms.length

end DecodeRun

/-- Four lookups fill an empty block (R81, R102). -/
theorem DecodeRun.reaches_four_lookups {c0 c1 c2 c3 : Byte} {s0 s1 s2 s3 : Sextet} (h0 : decTable c0 = some s0)
    (h1 : decTable c1 = some s1) (h2 : decTable c2 = some s2) (h3 : decTable c3 = some s3) (declared index : Nat)
    (rest out : List Byte) :
    Task.reaches 4 (.decodeRun ⟨declared, index, c0 :: c1 :: c2 :: c3 :: rest, [], out⟩)
      (.decodeRun ⟨declared, index + 4, rest, [s0, s1, s2, s3], out⟩) :=
  (((reaches_lookup (by simp) h0).trans (reaches_lookup (by simp) h1)).trans (reaches_lookup (by simp) h2)).trans
    (reaches_lookup (by simp) h3)

/-- Settles O52: once the four lookups have filled the block, its REPACK.DEC is next. -/
theorem repackWaitsForItsLookups : Obligations.RepackWaitsForItsLookups := by
  rintro s ⟨declared, index, todo, syms, out⟩ c0 c1 c2 c3 rest s0 s1 s2 s3 hs hsyms htodo h0 h1 h2 h3
  obtain rfl : syms = [] := hsyms
  obtain rfl : todo = c0 :: c1 :: c2 :: c3 :: rest := htodo
  obtain ⟨t, ht, hrun⟩ := DecodeRun.reaches_four_lookups h0 h1 h2 h3 declared index rest out s hs
  exact ⟨t, hrun 0, by rw [ht]; rfl, ht⟩

/-- The machine at a call of decode ends as decode does. -/
theorem decodeCall_ends (chars : List Byte) (declared : Nat) :
    Task.ends (5 * (chars.length / 4) + 2) (.decodeCall chars declared) (hostDecode chars declared) := by
  by_cases h4 : chars.length % 4 = 0
  · by_cases hL : declared ≤ 3 * (chars.length / 4)
    · have call := Task.reaches_of_turn (a := .decodeCall chars declared) (decodeCallMove_of_legal h4 hL)
      have steps := call.trans_ends (DecodeRun.ends_result declared 0 chars [] [] (by simp) (by simpa using h4))
      rw [hostDecode_of_legal h4 hL]
      convert steps using 1
      simp only [List.length_nil]
      omega
    · rw [hostDecode_of_long h4 (by omega)]
      exact fun s hs => run_succ_of_refused (step_decodeCall_of_long hs h4 (by omega)) _
  · rw [hostDecode_of_length h4]
    exact fun s hs => run_succ_of_fault (step_decodeCall_of_length hs h4) _

/-- Settles O49: the three ways that decode can end. -/
theorem machineComputesDecode : Obligations.MachineComputesDecode := by
  intro s chars declared
  have ends := decodeCall_ends chars declared (s.turnTo (.decodeCall chars declared)) rfl
  refine ⟨fun out h => ?_, fun e h => ?_, fun h => ?_⟩ <;> rwa [h] at ends

end Sys2Proof.Machine
end

section
/-! ### What encode gives (R85, R86) -/

namespace Sys2Proof.Machine

/-- The text of encode before its padding: the characters of the kept symbols (R85). -/
def encodedText (bytes : List Byte) : List Byte :=
  ((blockSymbols bytes).take (symbolCount bytes.length)).map symbolChar

/-- Encode always ends with its text and the padding (R54, R72, R86). -/
theorem hostEncode_eq (bytes : List Byte) :
    hostEncode bytes = .output (encodedText bytes ++ List.replicate (padCount bytes.length) padChar) := by
  simp [hostEncode, encodeBlocks_eq, lookupText_eq_map, bind, Except.bind, encodedText]

/-- One character a kept symbol (R85). -/
theorem length_encodedText (bytes : List Byte) : (encodedText bytes).length = symbolCount bytes.length := by
  simp [encodedText, length_blockSymbols, symbolCount_le]

theorem symbolChar_mem_alphabetText (v : Sextet) : symbolChar v ∈ alphabetText :=
  List.mem_of_getElem? (encTable_eq_getElem? _ ▸ encTable_symbol v)

theorem mem_alphabetText_of_mem_encodedText {bytes : List Byte} {c : Byte} (h : c ∈ encodedText bytes) :
    c ∈ alphabetText := by
  obtain ⟨v, -, rfl⟩ := List.mem_map.mp h
  exact symbolChar_mem_alphabetText v

/-- The number of '=' by what is left of the last block (R86). -/
theorem padCount_of_mod (n : Nat) :
    (n % 3 = 1 → padCount n = 2) ∧ (n % 3 = 2 → padCount n = 1) ∧ (n % 3 = 0 → padCount n = 0) := by
  simp +contextual [padCount]

/-- The padding fills the last block (R86). -/
theorem symbolCount_add_padCount (n : Nat) : symbolCount n + padCount n = 4 * ((n + 2) / 3) := by
  unfold symbolCount padCount
  split <;> omega

/-- Encode's output has four characters a block (R86, R88). -/
theorem length_of_hostEncode_output {bytes text : List Byte} (h : hostEncode bytes = .output text) :
    text.length = 4 * ((bytes.length + 2) / 3) := by
  obtain rfl : encodedText bytes ++ List.replicate (padCount bytes.length) padChar = text := by
    simpa [hostEncode_eq] using h
  rw [List.length_append, length_encodedText, List.length_replicate, symbolCount_add_padCount]

/-- Settles O45: the kept symbols' characters and the padding, counted by R73 and R86. -/
theorem encodeSucceedsAndPads : Obligations.EncodeSucceedsAndPads := by
  intro bytes
  obtain ⟨one, two, zero⟩ := padCount_of_mod bytes.length
  exact ⟨encodedText bytes, hostEncode_eq bytes, length_encodedText bytes,
    fun _ hc => mem_alphabetText_of_mem_encodedText hc, one, two, zero,
    by rw [length_encodedText, symbolCount_add_padCount]⟩

end Sys2Proof.Machine
end

section
/-! ### decode undoes encode (R75, R88) -/

namespace Sys2Proof.Machine

/-- The listed characters are codes of the alphabet (R43, R46). -/
theorem inAlphabet_of_mem_alphabetText : ∀ {c : Byte}, c ∈ alphabetText → inAlphabet c = true := by
  decide

/-- Listed characters before '=' are text over the alphabet (R43). -/
theorem inAlphabet_append_pad {body : List Byte} (h : ∀ c ∈ body, c ∈ alphabetText) (pad : Nat) :
    ∀ c ∈ body ++ List.replicate pad padChar, inAlphabet c = true := by
  intro c hc
  rcases List.mem_append.mp hc with hc | hc
  · exact inAlphabet_of_mem_alphabetText (h c hc)
  · rw [List.eq_of_mem_replicate hc]
    rfl

/-- A symbol's character stands in the listing of R46 at the symbol. -/
@[simp] theorem charSymbol_symbolChar (v : Sextet) : charSymbol (symbolChar v) = v := by
  have h := decTable_of_inAlphabet (inAlphabet_of_mem_alphabetText (symbolChar_mem_alphabetText v))
  exact (Option.some.inj ((decTable_symbolChar v).symm.trans h)).symm

/-- The kept symbols of a block of one, two or three bytes, filled up with the 0 that '=' reads as, repack to those bytes
first (R44, R75). -/
theorem take_symbolsBytes_padded (bytes : List Byte) :
    (symbolsBytes ((blockSymbols bytes).take (symbolCount bytes.length) ++
      List.replicate (padCount bytes.length) 0#6)).take bytes.length = bytes := by
  induction bytes using blockSymbols.induct with
  | case1 => rfl
  | case2 b0 =>
    obtain ⟨h0, -, -⟩ := repackBytes_repackSymbol b0 0#8 0#8
    simp [blockSymbols, symbolsBytes, symbolCount, padCount, List.range_succ, h0]
  | case3 b0 b1 =>
    obtain ⟨h0, h1, -⟩ := repackBytes_repackSymbol b0 b1 0#8
    simp [blockSymbols, symbolsBytes, symbolCount, padCount, List.range_succ, h0, h1]
  | case4 b0 b1 b2 rest ih =>
    obtain ⟨h0, h1, h2⟩ := repackBytes_repackSymbol b0 b1 b2
    have hcount : symbolCount (rest.length + 3) = 4 + symbolCount rest.length := symbolCount_add_three _
    have hpad : padCount (rest.length + 3) = padCount rest.length := by simp [padCount]
    simp [blockSymbols, symbolsBytes, hcount, hpad, List.range_succ, h0, h1, h2, ih, Nat.add_comm 4]

theorem map_charSymbol_encodedText (bytes : List Byte) :
    (encodedText bytes ++ List.replicate (padCount bytes.length) padChar).map charSymbol =
      (blockSymbols bytes).take (symbolCount bytes.length) ++ List.replicate (padCount bytes.length) 0#6 := by
  have hpad : charSymbol padChar = 0#6 := by decide
  simp [encodedText, hpad, Function.comp_def]

/-- Settles O47: decode's symbols are those that encode kept, and 0 for each '='. -/
theorem decodeUndoesEncode : Obligations.DecodeUndoesEncode := by
  intro bytes
  have hlen := length_of_hostEncode_output (hostEncode_eq bytes)
  refine ⟨_, hostEncode_eq bytes, ?_⟩
  rw [hostDecode_of_inAlphabet (by omega) (by omega)
    (inAlphabet_append_pad (fun c hc => mem_alphabetText_of_mem_encodedText hc) _),
    map_charSymbol_encodedText, take_symbolsBytes_padded]

end Sys2Proof.Machine
end

section
/-! ### The machine computes encode (R85, R86) -/

namespace Sys2Proof.Machine

/-- A block's four symbols join those done (R85). -/
theorem RepackRun.reaches_repack {r : RepackRun} {b0 b1 b2 : Byte}
    (h : r.move = .issue (encode (.repackEnc b0 b1 b2))) :
    Task.reaches 1 (.repackRun r)
      (.repackRun { r with todo := r.todo.drop 3, syms := r.syms ++ (List.range 4).map (repackSymbol b0 b1 b2) }) := by
  have block := Task.reaches_of_issue (a := .repackRun r) h rfl
  simpa [Task.absorb, RepackRun.absorb, lane6_pack6, List.range_succ] using block

/-- Encode's first loop takes a step a block and gives the blocks' symbols (R85). -/
theorem RepackRun.reaches_blockSymbols (n : Nat) (todo : List Byte) (syms : List Sextet) :
    Task.reaches ((todo.length + 2) / 3) (.repackRun ⟨n, todo, syms⟩)
      (.repackRun ⟨n, [], syms ++ blockSymbols todo⟩) := by
  induction todo using blockSymbols.induct generalizing syms with
  | case1 => simpa [blockSymbols] using Task.reaches_refl _
  | case2 b0 => simpa [blockSymbols] using RepackRun.reaches_repack (r := ⟨n, [b0], syms⟩) rfl
  | case3 b0 b1 => simpa [blockSymbols] using RepackRun.reaches_repack (r := ⟨n, [b0, b1], syms⟩) rfl
  | case4 b0 b1 b2 rest ih =>
    have block := RepackRun.reaches_repack (r := ⟨n, b0 :: b1 :: b2 :: rest, syms⟩) rfl
    have hsteps : ((b0 :: b1 :: b2 :: rest).length + 2) / 3 = 1 + (rest.length + 2) / 3 := by
      simp only [List.length_cons]
      omega
    rw [hsteps, blockSymbols, ← List.append_assoc]
    exact block.trans (ih _)

/-- Encode's second loop takes a step a symbol and gives the symbols' characters (R85). -/
theorem LookupRun.reaches_text (n : Nat) (todo : List Sextet) (text : List Byte) :
    Task.reaches todo.length (.lookupRun ⟨n, todo, text⟩) (.lookupRun ⟨n, [], text ++ todo.map symbolChar⟩) := by
  induction todo generalizing text with
  | nil => simpa using Task.reaches_refl _
  | cons v vs ih =>
    have lookup := Task.reaches_of_issue (a := .lookupRun ⟨n, v :: vs, text⟩) rfl (lookupEncResult_symbol v)
    have rest := ih (text ++ [symbolChar v])
    simp only [Task.absorb, LookupRun.absorb, lane8_setWidth, List.tail_cons] at lookup
    simpa [Nat.add_comm] using lookup.trans rest

/-- The machine at a call of encode ends with encode's padded text. -/
theorem encodeCall_ends (bytes : List Byte) :
    Task.ends ((bytes.length + 2) / 3 + symbolCount bytes.length + 3) (.encodeCall bytes)
      (.output (encodedText bytes ++ List.replicate (padCount bytes.length) padChar)) := by
  have call := Task.reaches_of_turn (a := .encodeCall bytes) rfl
  have repacked := RepackRun.reaches_blockSymbols bytes.length bytes []
  have turn := Task.reaches_of_turn (a := .repackRun ⟨bytes.length, [], blockSymbols bytes⟩) rfl
  have looked := LookupRun.reaches_text bytes.length ((blockSymbols bytes).take (symbolCount bytes.length)) []
  have done := Task.ends_of_turn_returned (a := .lookupRun ⟨bytes.length, [], encodedText bytes⟩) rfl
  have hsteps : (bytes.length + 2) / 3 + symbolCount bytes.length + 3 =
      1 + (bytes.length + 2) / 3 + 1 + ((blockSymbols bytes).take (symbolCount bytes.length)).length + 1 := by
    rw [List.length_take, length_blockSymbols, Nat.min_eq_left (symbolCount_le _)]
    omega
  rw [hsteps]
  exact (((call.trans repacked).trans turn).trans looked).trans_ends done

/-- Settles O50: the call, encode's two loops with the turn between them, and the return. -/
theorem machineComputesEncode : Obligations.MachineComputesEncode := by
  intro s bytes
  obtain ⟨t, hrun, ht⟩ := encodeCall_ends bytes (s.turnTo (.encodeCall bytes)) rfl
  exact ⟨_, t, hostEncode_eq bytes, hrun, ht⟩

end Sys2Proof.Machine
end

section
/-! ### decode as the standard decoding of the symbols' bit stream (R23, R88) -/

namespace Sys2Proof.Machine

/-- Byte `k` of an MSB-first bit stream. -/
def windowByte (stream : List Bool) (k : Nat) : Byte :=
  fromBitsLSB 8 ((stream.drop (8 * k)).take 8).reverse

/-- The bit stream of a text's symbols, MSB first (R23). -/
def charStream (text : List Byte) : List Bool := text.flatMap fun c => symbolBitsMSB (charSymbol c)

/-- The standard decoding is the whole bytes of the text's stream (log 7). -/
theorem standardDecode_eq_map (body : List Byte) :
    standardDecode body = (List.range (6 * body.length / 8)).map (windowByte (charStream body)) := rfl

theorem length_charStream (text : List Byte) : (charStream text).length = 6 * text.length := by
  simp [charStream, symbolBitsMSB, List.length_flatMap, Nat.mul_comm]

/-- A byte that lies in the first part of a stream does not see the rest. -/
theorem windowByte_append_left (front rest : List Bool) {k : Nat} (h : 8 * (k + 1) ≤ front.length) :
    windowByte (front ++ rest) k = windowByte front k := by
  have hdrop : 8 * k ≤ front.length := by omega
  have htake : 8 ≤ (front.drop (8 * k)).length := by rw [List.length_drop]; omega
  rw [windowByte, List.drop_append_of_le_length hdrop, List.take_append_of_le_length htake, windowByte]

/-- The bytes of a byte sequence's own stream are the sequence. -/
theorem map_windowByte_byteStream (bytes : List Byte) :
    (List.range bytes.length).map (windowByte (byteStream bytes)) = bytes := by
  induction bytes with
  | nil => rfl
  | cons b bs ih =>
    have hfirst : windowByte (byteStream (b :: bs)) 0 = b := fromBitsLSB_bits_byte b
    have later (k : Nat) : windowByte (byteStream (b :: bs)) (k + 1) = windowByte (byteStream bs) k := rfl
    rw [List.length_cons, List.range_succ_eq_map, List.map_cons, List.map_map, hfirst]
    exact congrArg (b :: ·) ((List.map_congr_left fun k _ => later k).trans ih)

/-- The first bytes of a sequence are the bytes of the front of its stream. -/
theorem map_windowByte_of_append {bytes : List Byte} {front rest : List Bool} {n : Nat}
    (h : byteStream bytes = front ++ rest) (hn : 8 * n ≤ front.length) :
    (List.range n).map (windowByte front) = bytes.take n := by
  have hlen : n ≤ bytes.length := by
    have := congrArg List.length h
    rw [length_byteStream, List.length_append] at this
    omega
  conv_rhs => rw [← map_windowByte_byteStream bytes, ← List.map_take, List.take_range, Nat.min_eq_left hlen, h]
  refine List.map_congr_left fun k hk => (windowByte_append_left front rest ?_).symm
  have := List.mem_range.mp hk
  omega

/-- REPACK.DEC keeps a block's bits in the order of the stream (R60). -/
theorem byteStream_repackBytes (g0 g1 g2 g3 : Sextet) :
    byteStream [repackByte0 g0 g1, repackByte1 g1 g2, repackByte2 g2 g3] =
      symbolBitsMSB g0 ++ symbolBitsMSB g1 ++ symbolBitsMSB g2 ++ symbolBitsMSB g3 := by
  simp [byteStream, bitsMSB, symbolBitsMSB, repackByte0, repackByte1, repackByte2, getElem_fromBitsLSB]

/-- The bytes of whole blocks have the symbols' stream (R60). -/
theorem byteStream_symbolsBytes : ∀ syms : List Sextet, syms.length % 4 = 0 →
    byteStream (symbolsBytes syms) = syms.flatMap symbolBitsMSB
  | [], _ => rfl
  | [_], h | [_, _], h | [_, _, _], h => by simp at h
  | g0 :: g1 :: g2 :: g3 :: rest, h => by
    have hrest : rest.length % 4 = 0 := by simpa [Nat.add_assoc] using h
    have hsplit : byteStream (symbolsBytes (g0 :: g1 :: g2 :: g3 :: rest)) =
        byteStream [repackByte0 g0 g1, repackByte1 g1 g2, repackByte2 g2 g3] ++ byteStream (symbolsBytes rest) := by
      simp [byteStream, symbolsBytes]
    rw [hsplit, byteStream_repackBytes, byteStream_symbolsBytes rest hrest]
    simp

/-- On text of the listing and padding that fills its blocks, decode is the standard decoding of the text without the
padding, which only adds bits behind the kept bytes. -/
theorem hostDecode_append_pad {body : List Byte} {pad : Nat} (h4 : (body.length + pad) % 4 = 0)
    (hbody : ∀ c ∈ body, c ∈ alphabetText) :
    hostDecode (body ++ List.replicate pad padChar) (6 * body.length / 8) = .output (standardDecode body) := by
  have hlen : (body ++ List.replicate pad padChar).length = body.length + pad := by simp
  have hstream : byteStream (symbolsBytes ((body ++ List.replicate pad padChar).map charSymbol)) =
      charStream body ++ charStream (List.replicate pad padChar) := by
    rw [byteStream_symbolsBytes _ (by simpa using h4), List.map_append, List.flatMap_append]
    simp only [List.flatMap_map, charStream]
  rw [hostDecode_of_inAlphabet (by omega) (by omega) (inAlphabet_append_pad hbody pad), standardDecode_eq_map,
    map_windowByte_of_append hstream (by rw [length_charStream]; omega)]

/-- Settles O48: canonical text has whole blocks and characters of the listing. -/
theorem decodeAgreesWithStandardDecoding : Obligations.DecodeAgreesWithStandardDecoding := by
  intro body pad h
  simp only [canonical, Bool.and_eq_true, beq_iff_eq, List.all_eq_true, List.contains_iff_mem] at h
  obtain ⟨⟨⟨h4, -⟩, hbody⟩, -⟩ := h
  exact hostDecode_append_pad h4 hbody

end Sys2Proof.Machine
end

section
/-! ### The end-to-end properties (R88) -/

namespace Sys2Proof.Machine

/-- No answer makes an evaluation or a script hold the ports. -/
theorem Task.absorb_ne_hold {a : Task} (h : a ≠ .hold) (d : Lanes) : a.absorb d ≠ .hold := by
  cases a with
  | script todo results => cases todo <;> simp [absorb]
  | hold => exact absurd rfl h
  | idle | decodeCall | decodeRun | encodeCall | repackRun | lookupRun | returned => simp [absorb]

/-- The host turns to no task that holds the ports. -/
theorem Task.ne_hold_of_turn {a b : Task} (h : a.move = .turn b) : b ≠ .hold := by
  rintro rfl
  cases a with
  | script todo results => cases todo <;> simp [move] at h
  | decodeCall chars declared =>
    simp only [move, decodeCallMove] at h
    split_ifs at h
    simp at h
  | decodeRun r =>
    obtain ⟨out, hout⟩ := DecodeRun.returned_of_turn h
    simp at hout
  | repackRun r =>
    simp only [move, RepackRun.move] at h
    split at h <;> simp at h
  | lookupRun r =>
    obtain ⟨out, hout⟩ := LookupRun.returned_of_turn h
    simp at hout
  | idle | hold | encodeCall | returned => simp [move] at h

/-- A step of a task that does not hold the ports depends on the task alone (R16, R88), and leads to no task that holds
them. -/
theorem step_of_ne_hold {a : Task} (h : a ≠ .hold) :
    (∃ b, b ≠ .hold ∧ a.reaches 1 b) ∨
    (∃ f, ∀ s : State, s.task = a → step s = .fault f) ∨ (∃ q, ∀ s : State, s.task = a → step s = .refused q) := by
  cases hm : a.move with
  | sample => exact absurd (Task.eq_hold_of_sample hm) h
  | issue w =>
    cases hr : instrResult (decode w) with
    | ok d => exact .inl ⟨a.absorb d, Task.absorb_ne_hold h d, Task.reaches_of_issue_word hm hr⟩
    | fault code => exact .inr (.inl ⟨a.abort code, fun s hs => hs ▸ step_of_issue_fault (hs ▸ hm) hr⟩)
  | turn b => exact .inl ⟨b, Task.ne_hold_of_turn hm, Task.reaches_of_turn hm⟩
  | error e => exact .inr (.inl ⟨.host e, fun s hs => by simp [step, hs, hm]⟩)
  | refuse q => exact .inr (.inr ⟨q, fun s hs => by simp [step, hs, hm]⟩)

/-- Runs of one task that does not hold the ports end alike (R88). -/
theorem run_endsAlike (k : Nat) {a : Task} (h : a ≠ .hold) {s s' : State} (hs : s.task = a) (hs' : s'.task = a) :
    endsAlike (Host.Core.run core k s) (Host.Core.run core k s') := by
  induction k generalizing a s s' with
  | zero => exact hs.trans hs'.symm
  | succ k ih =>
    rcases step_of_ne_hold h with ⟨b, hb, hnext⟩ | ⟨f, fault⟩ | ⟨q, refused⟩
    · obtain ⟨t, ht, hrun⟩ := hnext s hs
      obtain ⟨t', ht', hrun'⟩ := hnext s' hs'
      rw [Nat.add_comm, hrun, hrun']
      exact ih hb ht ht'
    · rw [run_succ_of_fault (fault s hs), run_succ_of_fault (fault s' hs')]
      rfl
    · rw [run_succ_of_refused (refused s hs), run_succ_of_refused (refused s' hs')]
      rfl

/-- Decode gives no output for an input with an invalid character (R84, R88). -/
theorem hostDecode_ne_output_of_invalid {chars : List Byte} (h : ∃ c ∈ chars, inAlphabet c = false) (declared : Nat)
    (out : List Byte) : hostDecode chars declared ≠ .output out := by
  intro hout
  obtain ⟨c, hc, hinvalid⟩ := h
  obtain ⟨-, -, hvalid⟩ := legal_of_hostDecode_output hout
  simp [hvalid c hc] at hinvalid

/-- Settles O53, property by property. -/
theorem hostMeetsEndToEndProperties : Obligations.HostMeetsEndToEndProperties where
  roundTrip := decodeUndoesEncode
  lengthInvariant := fun _ _ h => length_of_hostEncode_output h
  determinism := fun _ _ _ k h => run_endsAlike k h rfl rfl
  alphabetRejection := fun _ declared h =>
    ⟨hostDecode_ne_output_of_invalid h declared, fun h4 hL => hostDecode_of_invalid h4 hL h⟩
  lengthRejection := fun _ declared h => hostDecode_of_length h declared
  referenceAgreement := decodeAgreesWithStandardDecoding

end Sys2Proof.Machine
end

section
/-! ### Nothing presented at reset (R100) -/

namespace Sys2Proof.Machine

/-- An idle host presents nothing, whatever stands on the ports, and the step is refused (log 4). -/
theorem step_of_idle {s : State} (hs : s.task = .idle) : step s = .refused .noTransaction := by
  simp [step, hs, Task.move]

@[simp] theorem State.reset_task : State.reset.task = .idle := rfl

/-- Settles O34: the host is idle at reset, and an idle host's step is refused. -/
theorem resetPresentsNothing : Obligations.ResetPresentsNothing :=
  ⟨State.reset_task, step_of_idle State.reset_task⟩

end Sys2Proof.Machine
end

section
/-! ### The worked examples' command words (95 §2.1) -/

namespace Sys2Proof

/-- A word decodes to the instruction whose encoding it is (R30). -/
theorem decode_eq_of_encode_eq {w : CmdWord} {i : Instr} (h : encode i = w) : decode w = i :=
  h ▸ decode_encode i

/-- The `op` field and `din[7:0]` alone say which lookup a word is (R33). -/
theorem decode_eq_of_and_lookupMask {w : CmdWord} {i : Instr} (hi : i.op = .lookupDec ∨ i.op = .lookupEnc)
    (h : w &&& 0x30000FF#26 = encode i) : decode w = i := by
  have hop : (decode w).op = i.op := by
    rw [op_decode, ← cmdOp_append (cmdOp w) (cmdDin w &&& 0xFF#24), ← and_lookupMask, h, ← op_decode, decode_encode]
  have hkept : encode (decode w) = w &&& 0x30000FF#26 := by
    rw [decodedWordEncodesBack w, hop]
    rcases hi with hi | hi <;> rw [hi]
  exact Function.LeftInverse.injective decode_encode (hkept.trans h)

/-- Settles O4: four of the words are encodings, and the second is the first up to the bits a lookup ignores. -/
theorem workedExampleWordsDecode : Obligations.WorkedExampleWordsDecode :=
  ⟨decode_eq_of_encode_eq (by decide), decode_eq_of_and_lookupMask (.inl rfl) (by decide),
    decode_eq_of_encode_eq (by decide), decode_eq_of_encode_eq (by decide), decode_eq_of_encode_eq (by decide)⟩

end Sys2Proof
end
